-- ==== Sys2Proof/Word.lean ====
section
/-! DEFINITION. The two word widths of the core and its register index (spec/00_scope.md R7, R9, R10). -/

namespace Sys2Proof

/-- An 8-bit value: a general register, a timer, a memory byte (R7). -/
abbrev Byte := BitVec 8

/-- A 16-bit value: an opcode word, `I`, `pc`, a call-stack slot (R7). -/
abbrev Word := BitVec 16

/-- A general-register index, 0 to 15; every 4-bit field names one (R19). -/
abbrev Reg := Fin 16

/-- The flag register `VF` is register 15 (R10, R20). -/
abbrev vf : Reg := 15

end Sys2Proof
end

