-- ==== Sys2Proof/Syntax.lean ====
section
/-! DEFINITION. The instructions: one constructor for each row of spec/opcode_table.json, in the table's order
(spec/30_encoding.md R65; the last four are the fallback rows, R63). -/

namespace Sys2Proof

/-- An instruction with its operands, in the operand names of R55: `x`, `y` register indexes, `kk` an 8-bit immediate,
`nnn` a 12-bit address, `n` a row count. -/
inductive Instr where
  /-- 00E0 `CLS` (R113) -/
  | cls
  /-- 00EE `RET` (R85) -/
  | ret
  /-- 1nnn `JP nnn` (R86) -/
  | jp (nnn : BitVec 12)
  /-- 2nnn `CALL nnn` (R87) -/
  | call (nnn : BitVec 12)
  /-- 3xkk `SE Vx, kk` (R89) -/
  | seImm (x : Reg) (kk : Byte)
  /-- 4xkk `SNE Vx, kk` (R90) -/
  | sneImm (x : Reg) (kk : Byte)
  /-- 5xy0 `SE Vx, Vy` (R91) -/
  | seReg (x y : Reg)
  /-- 6xkk `LD Vx, kk` (R95) -/
  | ldImm (x : Reg) (kk : Byte)
  /-- 7xkk `ADD Vx, kk` (R96) -/
  | addImm (x : Reg) (kk : Byte)
  /-- 8xy0 `LD Vx, Vy` (R97) -/
  | ldReg (x y : Reg)
  /-- 8xy1 `OR Vx, Vy` (R98) -/
  | orReg (x y : Reg)
  /-- 8xy2 `AND Vx, Vy` (R99) -/
  | andReg (x y : Reg)
  /-- 8xy3 `XOR Vx, Vy` (R100) -/
  | xorReg (x y : Reg)
  /-- 8xy4 `ADD Vx, Vy` (R101) -/
  | addReg (x y : Reg)
  /-- 8xy5 `SUB Vx, Vy` (R102) -/
  | sub (x y : Reg)
  /-- 8xy6 `SHR Vx`, with `Vy` the source under `shiftSource = Vy` (R103) -/
  | shr (x y : Reg)
  /-- 8xy7 `SUBN Vx, Vy` (R104) -/
  | subn (x y : Reg)
  /-- 8xyE `SHL Vx`, with `Vy` the source under `shiftSource = Vy` (R105) -/
  | shl (x y : Reg)
  /-- 9xy0 `SNE Vx, Vy` (R92) -/
  | sneReg (x y : Reg)
  /-- Annn `LD I, nnn` (R107) -/
  | ldI (nnn : BitVec 12)
  /-- Bnnn `JP V0, nnn` (R88); `x` is the top nibble of `nnn`, carried for `jumpOffsetReg = Vx` (R64) -/
  | jpV0 (x : Reg) (nnn : BitVec 12)
  /-- Cxkk `RND Vx, kk` (R106) -/
  | rnd (x : Reg) (kk : Byte)
  /-- Dxyn `DRW Vx, Vy, n` (R114) -/
  | drw (x y : Reg) (n : Fin 16)
  /-- Ex9E `SKP Vx` (R116) -/
  | skp (x : Reg)
  /-- ExA1 `SKNP Vx` (R117) -/
  | sknp (x : Reg)
  /-- Fx07 `LD Vx, DT` (R119) -/
  | ldFromDT (x : Reg)
  /-- Fx0A `LD Vx, K` (R118) -/
  | ldK (x : Reg)
  /-- Fx15 `LD DT, Vx` (R120) -/
  | ldDT (x : Reg)
  /-- Fx18 `LD ST, Vx` (R121) -/
  | ldST (x : Reg)
  /-- Fx1E `ADD I, Vx` (R108) -/
  | addI (x : Reg)
  /-- Fx29 `LD F, Vx` (R109) -/
  | ldF (x : Reg)
  /-- Fx33 `LD B, Vx` (R110) -/
  | ldB (x : Reg)
  /-- Fx55 `LD [I], Vx` (R111) -/
  | stRegs (x : Reg)
  /-- Fx65 `LD Vx, [I]` (R112) -/
  | ldRegs (x : Reg)
  /-- a family-0 word whose low nibble is unmapped, with its low 12 bits (R63, R79, R84) -/
  | unmapped0 (low : BitVec 12)
  /-- a family-8 word whose low nibble is unmapped, with its low 12 bits (R63, R79) -/
  | unmapped8 (low : BitVec 12)
  /-- a family-E word whose low nibble is unmapped, with its low 12 bits (R63, R79) -/
  | unmappedE (low : BitVec 12)
  /-- a family-F word whose low byte is unmapped, with its low 12 bits (R63, R79) -/
  | unmappedF (low : BitVec 12)
  deriving DecidableEq, Repr

end Sys2Proof
end

