-- ==== Sys2Proof/WellFormed.lean ====
section
/-! DEFINITION. Which instruction terms stand for words (spec/30_encoding.md R63, R64): the operand ranges are in the types,
and two relations remain: the two overlapping fields of `JP V0` agree, and an unmapped term names no populated slot. -/

namespace Sys2Proof

/-- The populated low nibbles of family 0 (R59). -/
def mapped0 : List Nat := [0x0, 0xE]

/-- The populated low nibbles of family 8 (R60). -/
def mapped8 : List Nat := [0x0, 0x1, 0x2, 0x3, 0x4, 0x5, 0x6, 0x7, 0xE]

/-- The populated low nibbles of family E (R61). -/
def mappedE : List Nat := [0x1, 0xE]

/-- The populated low bytes of family F (R62). -/
def mappedF : List Nat := [0x07, 0x0A, 0x15, 0x18, 0x1E, 0x29, 0x33, 0x55, 0x65]

/-- The term is the decoding of some word. -/
def Instr.wellFormed : Instr → Bool
  | .jpV0 x nnn     => x.val == nnn.toNat / 256
  | .unmapped0 low  => !mapped0.contains (low.toNat % 16)
  | .unmapped8 low  => !mapped8.contains (low.toNat % 16)
  | .unmappedE low  => !mappedE.contains (low.toNat % 16)
  | .unmappedF low  => !mappedF.contains (low.toNat % 256)
  | .cls | .ret | .jp _ | .call _ | .seImm _ _ | .sneImm _ _ | .seReg _ _ | .ldImm _ _ | .addImm _ _
  | .ldReg _ _ | .orReg _ _ | .andReg _ _ | .xorReg _ _ | .addReg _ _ | .sub _ _ | .shr _ _ | .subn _ _
  | .shl _ _ | .sneReg _ _ | .ldI _ | .rnd _ _ | .drw _ _ _ | .skp _ | .sknp _ | .ldFromDT _ | .ldK _
  | .ldDT _ | .ldST _ | .addI _ | .ldF _ | .ldB _ | .stRegs _ | .ldRegs _ => true

end Sys2Proof
end

