-- ==== Sys2Proof/Decode.lean ====
section
/-! DEFINITION. The decoder, total on every word and on every list of bytes, and the encoder (spec/30_encoding.md R54 to R69). -/

namespace Sys2Proof

/-- `w[hi:lo]`, as an unsigned number (R9). -/
def field (w : Word) (hi lo : Nat) : Nat := w.toNat / 2 ^ lo % 2 ^ (hi + 1 - lo)

/-- `x = w[11:8]` (R55). -/
def fieldX (w : Word) : Reg := Fin.ofNat 16 (field w 11 8)

/-- `y = w[7:4]` (R55). -/
def fieldY (w : Word) : Reg := Fin.ofNat 16 (field w 7 4)

/-- `n = w[3:0]` (R55). -/
def fieldN (w : Word) : Fin 16 := Fin.ofNat 16 (field w 3 0)

/-- `kk = w[7:0]` (R55). -/
def fieldKK (w : Word) : Byte := BitVec.ofNat 8 (field w 7 0)

/-- `nnn = w[11:0]` (R55). -/
def fieldNNN (w : Word) : BitVec 12 := BitVec.ofNat 12 (field w 11 0)

/-- Family 0's secondary table, keyed by the low nibble alone (R59). -/
def decodeFamily0 (w : Word) : Instr :=
  match field w 3 0 with
  | 0x0 => .cls
  | 0xE => .ret
  | _   => .unmapped0 (fieldNNN w)

/-- Family 8's secondary table, keyed by the low nibble (R60). -/
def decodeFamily8 (w : Word) : Instr :=
  match field w 3 0 with
  | 0x0 => .ldReg (fieldX w) (fieldY w)
  | 0x1 => .orReg (fieldX w) (fieldY w)
  | 0x2 => .andReg (fieldX w) (fieldY w)
  | 0x3 => .xorReg (fieldX w) (fieldY w)
  | 0x4 => .addReg (fieldX w) (fieldY w)
  | 0x5 => .sub (fieldX w) (fieldY w)
  | 0x6 => .shr (fieldX w) (fieldY w)
  | 0x7 => .subn (fieldX w) (fieldY w)
  | 0xE => .shl (fieldX w) (fieldY w)
  | _   => .unmapped8 (fieldNNN w)

/-- Family E's secondary table, keyed by the low nibble alone (R61). -/
def decodeFamilyE (w : Word) : Instr :=
  match field w 3 0 with
  | 0x1 => .sknp (fieldX w)
  | 0xE => .skp (fieldX w)
  | _   => .unmappedE (fieldNNN w)

/-- Family F's secondary table, keyed by the low byte (R62). -/
def decodeFamilyF (w : Word) : Instr :=
  match field w 7 0 with
  | 0x07 => .ldFromDT (fieldX w)
  | 0x0A => .ldK (fieldX w)
  | 0x15 => .ldDT (fieldX w)
  | 0x18 => .ldST (fieldX w)
  | 0x1E => .addI (fieldX w)
  | 0x29 => .ldF (fieldX w)
  | 0x33 => .ldB (fieldX w)
  | 0x55 => .stRegs (fieldX w)
  | 0x65 => .ldRegs (fieldX w)
  | _    => .unmappedF (fieldNNN w)

/-- The primary table, keyed by the top nibble, all 16 entries populated (R57, R64). -/
def decodeWord (w : Word) : Instr :=
  match field w 15 12 with
  | 0x0 => decodeFamily0 w
  | 0x1 => .jp (fieldNNN w)
  | 0x2 => .call (fieldNNN w)
  | 0x3 => .seImm (fieldX w) (fieldKK w)
  | 0x4 => .sneImm (fieldX w) (fieldKK w)
  | 0x5 => .seReg (fieldX w) (fieldY w)
  | 0x6 => .ldImm (fieldX w) (fieldKK w)
  | 0x7 => .addImm (fieldX w) (fieldKK w)
  | 0x8 => decodeFamily8 w
  | 0x9 => .sneReg (fieldX w) (fieldY w)
  | 0xA => .ldI (fieldNNN w)
  | 0xB => .jpV0 (fieldX w) (fieldNNN w)
  | 0xC => .rnd (fieldX w) (fieldKK w)
  | 0xD => .drw (fieldX w) (fieldY w) (fieldN w)
  | 0xE => decodeFamilyE w
  | _   => decodeFamilyF w

/-- Two bytes as a word, the first the high half (R45, R54). -/
def wordOfBytes (hi lo : Byte) : Word := BitVec.ofNat 16 (hi.toNat * 256 + lo.toNat)

/-- The high byte `w[15:8]` (R45). -/
def highByte (w : Word) : Byte := BitVec.ofNat 8 (field w 15 8)

/-- The low byte `w[7:0]` (R45). -/
def lowByte (w : Word) : Byte := BitVec.ofNat 8 (field w 7 0)

/-- Why a list of bytes is no instruction: it has fewer than two bytes. Nothing else is rejected (R64, R67). -/
inductive DecodeError where
  | tooShort
  deriving DecidableEq, Repr

/-- Read one instruction from a list of bytes, answering the bytes after it (R54, R67). -/
def decode : List Byte → Except DecodeError (Instr × List Byte)
  | hi :: lo :: rest => .ok (decodeWord (wordOfBytes hi lo), rest)
  | _                => .error .tooShort

/-- The instruction the decoder reads from an opcode-table word of at most 16 bits, laid out as the hardware stores it. -/
def decodeTableWord (nbits w : Nat) : Option Instr :=
  if nbits ≤ 16 then
    let word : Word := BitVec.ofNat 16 (w % 2 ^ nbits)
    match decode [highByte word, lowByte word] with
    | .ok (i, _) => some i
    | .error _   => none
  else none

/-- A word from its four nibbles, most significant first (R54). -/
def ofNibbles (a b c d : Nat) : Word := BitVec.ofNat 16 (a * 4096 + b * 256 + c * 16 + d)

/-- A word of shape `fxkk` (R54). -/
def ofXKK (f : Nat) (x : Reg) (kk : Nat) : Word := BitVec.ofNat 16 (f * 4096 + x.val * 256 + kk)

/-- A word of shape `fnnn` (R54). -/
def ofNNN (f : Nat) (nnn : BitVec 12) : Word := BitVec.ofNat 16 (f * 4096 + nnn.toNat)

/-- The canonical word of an instruction (R65, R69). -/
def encode : Instr → Word
  | .cls           => 0x00E0
  | .ret           => 0x00EE
  | .jp nnn        => ofNNN 0x1 nnn
  | .call nnn      => ofNNN 0x2 nnn
  | .seImm x kk    => ofXKK 0x3 x kk.toNat
  | .sneImm x kk   => ofXKK 0x4 x kk.toNat
  | .seReg x y     => ofNibbles 0x5 x y 0x0
  | .ldImm x kk    => ofXKK 0x6 x kk.toNat
  | .addImm x kk   => ofXKK 0x7 x kk.toNat
  | .ldReg x y     => ofNibbles 0x8 x y 0x0
  | .orReg x y     => ofNibbles 0x8 x y 0x1
  | .andReg x y    => ofNibbles 0x8 x y 0x2
  | .xorReg x y    => ofNibbles 0x8 x y 0x3
  | .addReg x y    => ofNibbles 0x8 x y 0x4
  | .sub x y       => ofNibbles 0x8 x y 0x5
  | .shr x y       => ofNibbles 0x8 x y 0x6
  | .subn x y      => ofNibbles 0x8 x y 0x7
  | .shl x y       => ofNibbles 0x8 x y 0xE
  | .sneReg x y    => ofNibbles 0x9 x y 0x0
  | .ldI nnn       => ofNNN 0xA nnn
  | .jpV0 _ nnn    => ofNNN 0xB nnn
  | .rnd x kk      => ofXKK 0xC x kk.toNat
  | .drw x y n     => ofNibbles 0xD x y n
  | .skp x         => ofXKK 0xE x 0x9E
  | .sknp x        => ofXKK 0xE x 0xA1
  | .ldFromDT x    => ofXKK 0xF x 0x07
  | .ldK x         => ofXKK 0xF x 0x0A
  | .ldDT x        => ofXKK 0xF x 0x15
  | .ldST x        => ofXKK 0xF x 0x18
  | .addI x        => ofXKK 0xF x 0x1E
  | .ldF x         => ofXKK 0xF x 0x29
  | .ldB x         => ofXKK 0xF x 0x33
  | .stRegs x      => ofXKK 0xF x 0x55
  | .ldRegs x      => ofXKK 0xF x 0x65
  | .unmapped0 low => ofNNN 0x0 low
  | .unmapped8 low => ofNNN 0x8 low
  | .unmappedE low => ofNNN 0xE low
  | .unmappedF low => ofNNN 0xF low

/-- The bytes of an instruction as memory holds them, high byte first (R45, R46). -/
def encodeBytes (i : Instr) : List Byte := [highByte (encode i), lowByte (encode i)]

/-- One row of the opcode map: a word selects it when `w & mask = pattern` (R65). -/
structure OpcodeRow where
  number  : Nat
  pattern : Word
  mask    : Word
  deriving DecidableEq, Repr

/-- Rows 1 to 34 of the opcode map (R65). -/
def opcodeMap : List OpcodeRow :=
  [⟨1, 0x0000, 0xF00F⟩, ⟨2, 0x000E, 0xF00F⟩, ⟨3, 0x1000, 0xF000⟩, ⟨4, 0x2000, 0xF000⟩, ⟨5, 0x3000, 0xF000⟩,
   ⟨6, 0x4000, 0xF000⟩, ⟨7, 0x5000, 0xF000⟩, ⟨8, 0x6000, 0xF000⟩, ⟨9, 0x7000, 0xF000⟩] ++
  [⟨10, 0x8000, 0xF00F⟩, ⟨11, 0x8001, 0xF00F⟩, ⟨12, 0x8002, 0xF00F⟩, ⟨13, 0x8003, 0xF00F⟩, ⟨14, 0x8004, 0xF00F⟩,
   ⟨15, 0x8005, 0xF00F⟩, ⟨16, 0x8006, 0xF00F⟩, ⟨17, 0x8007, 0xF00F⟩, ⟨18, 0x800E, 0xF00F⟩] ++
  [⟨19, 0x9000, 0xF000⟩, ⟨20, 0xA000, 0xF000⟩, ⟨21, 0xB000, 0xF000⟩, ⟨22, 0xC000, 0xF000⟩, ⟨23, 0xD000, 0xF000⟩,
   ⟨24, 0xE00E, 0xF00F⟩, ⟨25, 0xE001, 0xF00F⟩] ++
  [⟨26, 0xF007, 0xF0FF⟩, ⟨27, 0xF00A, 0xF0FF⟩, ⟨28, 0xF015, 0xF0FF⟩, ⟨29, 0xF018, 0xF0FF⟩, ⟨30, 0xF01E, 0xF0FF⟩,
   ⟨31, 0xF029, 0xF0FF⟩, ⟨32, 0xF033, 0xF0FF⟩, ⟨33, 0xF055, 0xF0FF⟩, ⟨34, 0xF065, 0xF0FF⟩]

/-- The word selects the row (R65). -/
def OpcodeRow.selects (r : OpcodeRow) (w : Word) : Bool := w &&& r.mask == r.pattern

/-- The number of an instruction's row: 1 to 34 in the opcode map of R65, `none` for an unmapped slot (R63). -/
def Instr.rowNumber : Instr → Option Nat
  | .cls => some 1 | .ret => some 2 | .jp _ => some 3 | .call _ => some 4 | .seImm _ _ => some 5
  | .sneImm _ _ => some 6 | .seReg _ _ => some 7 | .ldImm _ _ => some 8 | .addImm _ _ => some 9
  | .ldReg _ _ => some 10 | .orReg _ _ => some 11 | .andReg _ _ => some 12 | .xorReg _ _ => some 13
  | .addReg _ _ => some 14 | .sub _ _ => some 15 | .shr _ _ => some 16 | .subn _ _ => some 17
  | .shl _ _ => some 18 | .sneReg _ _ => some 19 | .ldI _ => some 20 | .jpV0 _ _ => some 21
  | .rnd _ _ => some 22 | .drw _ _ _ => some 23 | .skp _ => some 24 | .sknp _ => some 25
  | .ldFromDT _ => some 26 | .ldK _ => some 27 | .ldDT _ => some 28 | .ldST _ => some 29
  | .addI _ => some 30 | .ldF _ => some 31 | .ldB _ => some 32 | .stRegs _ => some 33 | .ldRegs _ => some 34
  | .unmapped0 _ | .unmapped8 _ | .unmappedE _ | .unmappedF _ => none

end Sys2Proof
end

