-- ==== Sys2Proof/Config.lean ====
section
/-! DEFINITION. What the spec leaves to the implementation (spec/00_scope.md R8, spec/92_eei_decisions.md): the open
parameters as one record, and the random byte as a free value. The default of each parameter is in Machine/Defaults.lean. -/

namespace Sys2Proof

/-- `romMaxBytes` has two values, 3583 and 3584 (R8, D22; 90_conflicts.md C1). -/
inductive RomLimit where
  | bytes3583
  | bytes3584
  deriving DecidableEq, Repr

/-- What an unmapped slot does (R8, R79, D1). -/
inductive UnmappedPolicy where
  | noop
  | fault
  deriving DecidableEq, Repr

/-- Which register `SHR` and `SHL` shift (R8, R103, R105, D15). -/
inductive ShiftSource where
  | vx
  | vy
  deriving DecidableEq, Repr

/-- Which register `JP V0, nnn` adds (R8, R88, D17). -/
inductive JumpOffsetReg where
  | v0
  | vx
  deriving DecidableEq, Repr

/-- How `SUBN` compares for its flag (R8, R104, D18). -/
inductive SubnFlag where
  | gt
  | ge
  deriving DecidableEq, Repr

/-- The open parameters of R8, but for the random byte. Fixed for one machine: no step changes them. -/
structure Config where
  romMaxBytes          : RomLimit
  unmappedPolicy       : UnmappedPolicy
  logicResetsVF        : Bool
  shiftSource          : ShiftSource
  loadStoreIncrementsI : Bool
  jumpOffsetReg        : JumpOffsetReg
  subnFlag             : SubnFlag
  /-- The 80 font bytes at 0x050 (R31, D10). -/
  fontGlyphs           : Vector Byte 80
  deriving DecidableEq, Repr

/-- The byte drawn at the `n`-th execution of `RND` (R14, R35, D21): a FREE VALUE. It has no body here, so nothing can be
proved of it, and whatever is proved holds for every sequence of draws. Log entry 3. -/
opaque Config.randomByte : Nat → BitVec 8

end Sys2Proof
end

