-- ==== Sys2Proof/Machine/Defaults.lean ====
section
/-! DEFINITION. The default value of every open parameter (spec/00_scope.md R8) and the font glyph table (spec/10_state.md R31). -/

namespace Sys2Proof.Machine

/-- The glyphs of the sixteen hexadecimal digits, five bytes each (R31). Log entry 10. -/
def defaultGlyphs : Vector Byte 80 := #v[
  0xF0, 0x90, 0x90, 0x90, 0xF0,  0x20, 0x60, 0x20, 0x20, 0x70,  0xF0, 0x10, 0xF0, 0x80, 0xF0,  0xF0, 0x10, 0xF0, 0x10, 0xF0,
  0x90, 0x90, 0xF0, 0x10, 0x10,  0xF0, 0x80, 0xF0, 0x10, 0xF0,  0xF0, 0x80, 0xF0, 0x90, 0xF0,  0xF0, 0x10, 0x20, 0x40, 0x40,
  0xF0, 0x90, 0xF0, 0x90, 0xF0,  0xF0, 0x90, 0xF0, 0x10, 0xF0,  0xF0, 0x90, 0xF0, 0x90, 0x90,  0xE0, 0x90, 0xE0, 0x90, 0xE0,
  0xF0, 0x80, 0x80, 0x80, 0xF0,  0xE0, 0x90, 0x90, 0x90, 0xE0,  0xF0, 0x80, 0xF0, 0x80, 0xF0,  0xF0, 0x80, 0xF0, 0x80, 0x80]

/-- The defaults of R8. -/
def defaultConfig : Config where
  romMaxBytes          := .bytes3583
  unmappedPolicy       := .noop
  logicResetsVF        := false
  shiftSource          := .vx
  loadStoreIncrementsI := false
  jumpOffsetReg        := .v0
  subnFlag             := .gt
  fontGlyphs           := defaultGlyphs

/-- The initial program counter, the ROM's load address (R22, R44, D9). -/
def resetPC : Word := 0x200

end Sys2Proof.Machine
end

