-- ==== Sys2Proof/Machine/State.lean ====
section
/-! DEFINITION. The machine's state as plain data (spec/10_state.md R18 to R37), the reasons a step can stop, and the state
after construction (spec/70_reset_and_hazards.md R139). -/

namespace Sys2Proof.Machine

/-- The error state `err` (R32, R122). -/
inductive ErrorState where
  | ok
  | fileNotFound
  | undefinedInstruction
  | romOverflow
  | addressOutOfRange
  | stackOverflow
  | stackUnderflow
  | keyOutOfRange
  | displayOutOfRange
  deriving DecidableEq, Repr

/-- The fault record (R33). `pc` is absent only for a load error, which has no faulting cycle (log entry 7). -/
structure FaultRecord where
  /-- `pc` at the start of the faulting cycle -/
  pc    : Option Word
  /-- the fetched word; absent when the fetch itself failed or the error came from the loader -/
  word  : Option Word
  /-- the offending address, stack pointer, key index, cell index or ROM length, where the error has one (R122) -/
  value : Option Nat
  deriving DecidableEq, Repr

/-- The lifecycle phase (R34). -/
inductive Phase where
  | constructed
  | loaded
  deriving DecidableEq, Repr

/-- What the load port receives (R140, D35). -/
inductive RomSource where
  | notFound
  | image (bytes : List Byte)
  deriving DecidableEq, Repr

/-- The host's operations that change the machine (R131). The reading ones are functions of a state. -/
inductive HostOp where
  | load (src : RomSource)
  | cycle
  | setKey (k : Fin 16) (pressed : Bool)
  deriving DecidableEq, Repr

/-- Why a step stops with a fault. -/
inductive Fault where
  /-- Raised when a cycle or a load is asked of a machine whose error state is `e`, not `Ok` (R125, U14). Safe: the spec
  gives the halted machine no step. -/
  | halted (e : ErrorState)
  deriving DecidableEq, Repr

/-- Why a step is refused. -/
inductive Refusal where
  /-- Answered by `exec` for an instruction that has no meaning yet. Safe. -/
  | notModelled (mnemonic : String)
  /-- A cycle was asked for before a successful load; the spec admits none (R141, U13). Safe. -/
  | cycleBeforeLoad
  /-- A second load was asked for; the spec admits none (R141, U13). Safe. -/
  | secondLoad
  deriving DecidableEq, Repr

/-- The machine (R37), with the spec's names. The last three fields are the model's own: log entries 1, 3 and 4. -/
structure State where
  /-- general registers `V0` to `VF` (R18) -/
  V       : Vector Byte 16
  /-- index register (R23) -/
  I       : Word
  /-- program counter (R22) -/
  pc      : Word
  /-- call stack slots (R24) -/
  S       : Vector Word 16
  /-- stack pointer, 0 to 16 (R25; log entry 8) -/
  SP      : Fin 17
  /-- delay timer (R26) -/
  DT      : Byte
  /-- sound timer (R27) -/
  ST      : Byte
  /-- memory, as the addresses that differ from the construction contents, ascending (R28; log entry 9) -/
  M       : List Host.Cell
  /-- framebuffer, row-major, true for on (R29, D34) -/
  FB      : Vector Bool 2048
  /-- keypad, true for pressed (R30) -/
  K       : Vector Bool 16
  /-- error state (R32) -/
  err     : ErrorState
  /-- fault record (R33) -/
  fault   : Option FaultRecord
  /-- lifecycle phase (R34) -/
  phase   : Phase
  /-- the open parameters of R8, fixed for one machine -/
  cfg     : Config
  /-- how many random bytes have been drawn: the index of the next free value (R14, R35) -/
  draws   : Nat
  /-- host operations still to come, first next; with none left, the driver asks for cycles (R131) -/
  hostOps : List HostOp
  deriving DecidableEq, Repr

/-- Construction under given parameters (R138, R139). -/
def State.construct (c : Config) : State where
  V       := Vector.replicate 16 0
  I       := 0
  pc      := resetPC
  S       := Vector.replicate 16 0
  SP      := 0
  DT      := 0
  ST      := 0
  M       := []
  FB      := Vector.replicate 2048 false
  K       := Vector.replicate 16 false
  err     := .ok
  fault   := none
  phase   := .constructed
  cfg     := c
  draws   := 0
  hostOps := []

/-- The machine right after construction under the default parameters (R8, R139). -/
def State.reset : State := State.construct defaultConfig

end Sys2Proof.Machine
end

