-- ==== Sys2Proof/Machine/Ops.lean ====
section
/-! DEFINITION. The named operations over memory, registers, the counter, the stack, the framebuffer and the timers, and the
one way an error is raised (spec/20_memory.md, spec/40_cycle.md, spec/60_exceptions.md). -/

namespace Sys2Proof.Machine

/-! ## Memory (R28, R39 to R46) -/

/-- The size of the address space, 4096 bytes (R39). -/
def memSize : Nat := 0x1000

/-- Memory as a list of the cells that differ from the construction contents. -/
abbrev Memory := List Host.Cell

/-- The byte construction leaves at an address: the font in [0x050, 0x0A0), 0x00 elsewhere (R28, R42, R139). -/
def constructionByte (c : Config) (a : Nat) : Byte :=
  if h : 0x050 ≤ a ∧ a < 0x0A0 then c.fontGlyphs[a - 0x050] else 0

/-- The byte at an address, where `bg` says what an unlisted address holds. -/
def Memory.read (bg : Nat → Byte) : Memory → Nat → Byte
  | [], a => bg a
  | (k, v) :: m, a => if a = k then v else Memory.read bg m a

/-- Put a byte at an address, keeping the list ascending and free of cells that hold what `bg` gives. -/
def Memory.write (bg : Nat → Byte) : Memory → Nat → Byte → Memory
  | [], a, v => if v = bg a then [] else [(a, v)]
  | (k, u) :: m, a, v =>
    if a < k then (if v = bg a then (k, u) :: m else (a, v) :: (k, u) :: m)
    else if a = k then (if v = bg a then m else (a, v) :: m)
    else (k, u) :: Memory.write bg m a v

/-- The canonical form from address `lo` on: addresses ascending and inside the space, no cell holding what `bg` gives. -/
def Memory.wfFrom (bg : Nat → Byte) : Nat → Memory → Bool
  | _, [] => true
  | lo, (k, v) :: m => decide (lo ≤ k) && decide (k < memSize) && decide (v ≠ bg k) && Memory.wfFrom bg (k + 1) m

/-- The canonical form of memory. -/
def Memory.wf (bg : Nat → Byte) (m : Memory) : Bool := Memory.wfFrom bg 0 m

/-- The memory of a state is in its canonical form. -/
def State.memWf (s : State) : Bool := Memory.wf (constructionByte s.cfg) s.M

/-- The byte at an address of the space (R49). -/
def State.readByte (s : State) (a : Nat) : Byte := Memory.read (constructionByte s.cfg) s.M a

/-- `MemRead(a, 1)`: no value at or above 0x1000 (R12, R40). -/
def State.memRead (s : State) (a : Nat) : Option Byte := if a < memSize then some (s.readByte a) else none

/-- `MemWrite(a, 1, v)`: the access does not happen at or above 0x1000 (R12, R40). -/
def State.writeByte (a : Nat) (v : Byte) (s : State) : State :=
  if a < memSize then { s with M := Memory.write (constructionByte s.cfg) s.M a v } else s

/-- Bytes stored at ascending addresses from `a` on (R46, R48). -/
def State.storeBytes (a : Nat) : List Byte → State → State
  | [], s => s
  | b :: bs, s => State.storeBytes (a + 1) bs (s.writeByte a b)

/-- The `n` bytes at `a`, `a + 1`, ... (R46, R48). -/
def State.loadBytes (s : State) (a n : Nat) : List Byte := (List.range n).map fun k => s.readByte (a + k)

/-- The lowest address at or above 0x1000 among the `len` bytes from `base` on, the sums unwrapped (R40, R41, R124). -/
def blockFault (base len : Nat) : Option Nat :=
  if 0 < len ∧ memSize ≤ base + len - 1 then some (max base memSize) else none

/-- The big-endian word at `pc`, or the address of the first byte that does not exist (R45, R72). -/
def State.fetchAt (s : State) (pc : Word) : Except Nat Word :=
  match s.memRead pc.toNat with
  | none => .error pc.toNat
  | some hi =>
    match s.memRead (pc.toNat + 1) with
    | none => .error (pc.toNat + 1)
    | some lo => .ok (wordOfBytes hi lo)

/-- The word at `pc` where there is one. -/
def State.wordAt (s : State) (pc : Word) : Option Word :=
  match s.fetchAt pc with
  | .ok w => some w
  | .error _ => none

/-! ## Registers (R10, R18 to R27) -/

/-- `V[x]`. -/
def State.readV (s : State) (x : Reg) : Byte := s.V[x.val]

/-- `V[x] <- b`. -/
def State.writeV (x : Reg) (b : Byte) (s : State) : State := { s with V := s.V.set x.val b }

/-- The registers from index `k` on, set to the bytes in order (R112). -/
def setRegisters (k : Nat) : List Byte → Vector Byte 16 → Vector Byte 16
  | [], regs => regs
  | b :: bs, regs => setRegisters (k + 1) bs (regs.setIfInBounds k b)

/-- `V[k] <- bytes[k]` for every `k` the list reaches (R112). -/
def State.writeVs (bytes : List Byte) (s : State) : State := { s with V := setRegisters 0 bytes s.V }

/-- `I <- w`. -/
def State.writeI (w : Word) (s : State) : State := { s with I := w }

/-- `DT <- b`. -/
def State.writeDT (b : Byte) (s : State) : State := { s with DT := b }

/-- `ST <- b`. -/
def State.writeST (b : Byte) (s : State) : State := { s with ST := b }

/-- The timer after one timer step: one less while non-zero (R76). -/
def countDown (t : Byte) : Byte := if t = 0 then 0 else t - 1

/-- The timer step, delay timer and then sound timer (R76). -/
def State.timerStep (s : State) : State := { s with DT := countDown s.DT, ST := countDown s.ST }

/-! ## The program counter and the call stack (R22, R24, R25) -/

/-- `pc <- w`. -/
def State.jump (w : Word) (s : State) : State := { s with pc := w }

/-- `pc <- (pc + 2) mod 2^16`: the advance before the handler (R73), and a skip (R82). -/
def State.advance (s : State) : State := { s with pc := s.pc + 2 }

/-- `pc <- (pc - 2) mod 2^16`: the same instruction again next cycle (R118). -/
def State.rewind (s : State) : State := { s with pc := s.pc - 2 }

/-- A skip where the condition holds (R82). -/
def State.skipIf (c : Bool) (s : State) : State := if c then s.advance else s

/-- `S[SP] <- w; SP <- SP + 1`, where a slot is free (R87). -/
def State.push (w : Word) (s : State) (h : s.SP.val < 16) : State :=
  { s with S := s.S.set s.SP.val w h, SP := ⟨s.SP.val + 1, Nat.succ_lt_succ h⟩ }

/-- `SP <- SP - 1; pc <- S[SP]`, where an address is held; the slot keeps its value (R24, R85, D30). -/
def State.pop (s : State) (h : s.SP.val ≠ 0) : State :=
  { s with
    SP := ⟨s.SP.val - 1, Nat.lt_of_le_of_lt (Nat.sub_le _ _) s.SP.isLt⟩
    pc := s.S[s.SP.val - 1]'(Nat.lt_of_lt_of_le (Nat.sub_one_lt h) (Nat.le_of_lt_succ s.SP.isLt)) }

/-! ## Framebuffer and draws (R14, R29) -/

/-- The number of framebuffer cells (R29). -/
def cellCount : Nat := 2048

/-- The cell is on. -/
def cellOn (fb : Vector Bool 2048) (c : Nat) : Bool := (fb[c]?).getD false

/-- `FB[c] <- FB[c] XOR on` (R114). -/
def toggleCell (fb : Vector Bool 2048) (c : Nat) : Vector Bool 2048 := fb.setIfInBounds c (!cellOn fb c)

/-- The next random byte, and the state whose next draw is the one after it (R14, R106). -/
def State.drawByte (s : State) : Byte × State := (Config.randomByte s.draws, { s with draws := s.draws + 1 })

/-! ## Raising an error (R13, R78, R122 to R124) -/

/-- The numeric code of an error state (R122, D32). -/
def ErrorState.code : ErrorState → Nat
  | .ok => 0
  | .fileNotFound => 1
  | .undefinedInstruction => 2
  | .romOverflow => 3
  | .addressOutOfRange => 4
  | .stackOverflow => 5
  | .stackUnderflow => 6
  | .keyOutOfRange => 7
  | .displayOutOfRange => 8

/-- Raise `e` in the cycle that began at `pc0`: the state before the cycle with only `err` and `fault` changed, the record
holding `pc0`, the word the cycle fetched there and the offending value (R13, R78, R123). There is no handler and no return:
the machine is halted (R125). -/
def State.raiseAt (pc0 : Word) (e : ErrorState) (v : Option Nat) (s : State) : State :=
  { s with pc := pc0, err := e, fault := some ⟨some pc0, s.wordAt pc0, v⟩ }

/-- Raise `e` in a handler, which runs with `pc` two past its instruction and has written nothing yet (R73, R81; log entry 6). -/
def raise (e : ErrorState) (v : Option Nat) (s : State) : Host.Outcome State Fault Refusal :=
  .next (s.raiseAt (s.pc - 2) e v)

end Sys2Proof.Machine
end

