-- ==== Sys2Proof/Machine/Operands.lean ====
section
/-! DEFINITION. The operand forms (spec/30_encoding.md R56): registers are read by `State.readV`, and the rest is here:
zero-extended addresses, the bytes at `I`, the parameter-chosen registers, key numbers and sprite coordinates. -/

namespace Sys2Proof.Machine

/-- `zext_16(nnn)` (R56). -/
def addressOf (nnn : BitVec 12) : Word := nnn.zeroExtend 16

/-- The source of a shift, `V[x]` or `V[y]` by `shiftSource` (R103, R105). -/
def State.shiftOperand (s : State) (x y : Reg) : Byte :=
  match s.cfg.shiftSource with
  | .vx => s.readV x
  | .vy => s.readV y

/-- The offset of `JP V0, nnn`, `V[0]` or `V[x]` by `jumpOffsetReg` (R88). -/
def State.jumpOffset (s : State) (x : Reg) : Byte :=
  match s.cfg.jumpOffsetReg with
  | .v0 => s.readV 0
  | .vx => s.readV x

/-- The glyph address of a digit, `0x050 + 5 * v`, not masked (R109, D11). -/
def glyphAddress (v : Byte) : Word := BitVec.ofNat 16 (0x050 + 5 * v.toNat)

/-- The hundreds, tens and ones digits of a byte (R110). -/
def bcdDigits (v : Byte) : List Byte :=
  [BitVec.ofNat 8 (v.toNat / 100), BitVec.ofNat 8 (v.toNat / 10 % 10), BitVec.ofNat 8 (v.toNat % 10)]

/-- The bytes `V0` to `Vx` (R111). -/
def State.registersUpTo (s : State) (x : Reg) : List Byte := s.V.toList.take (x.val + 1)

/-- `I` after a register block store or load (R111, R112, D16). -/
def State.blockNextI (s : State) (x : Reg) : Word :=
  if s.cfg.loadStoreIncrementsI then BitVec.ofNat 16 (s.I.toNat + x.val + 1) else s.I

/-- The key number in `V[x]`, where the keypad has it (R116, R117). -/
def State.keyOperand (s : State) (x : Reg) : Except Nat (Fin 16) :=
  if h : (s.readV x).toNat < 16 then .ok ⟨(s.readV x).toNat, h⟩ else .error (s.readV x).toNat

/-- The key is pressed. -/
def State.keyPressed (s : State) (k : Fin 16) : Bool := s.K[k.val]

/-- The lowest pressed key (R118). -/
def State.firstKey (s : State) : Option (Fin 16) := (List.finRange 16).find? fun k => s.keyPressed k

/-- The start column of a sprite, `V[x] mod 64` (R114). -/
def State.spriteColumn (s : State) (x : Reg) : Nat := (s.readV x).toNat % 64

/-- The start row of a sprite, `V[y] mod 32` (R114). -/
def State.spriteRow (s : State) (y : Reg) : Nat := (s.readV y).toNat % 32

/-- The flat cell indexes of the set bits of one sprite row that starts at index `base`, most significant bit first (R114). -/
def rowCells (base : Nat) (row : Byte) : List Nat :=
  ((List.range 8).filter fun c => row.getLsbD (7 - c)).map fun c => base + c

/-- The flat cell indexes of the set bits of the sprite rows from row `y` on, at column `cx`, in drawing order: the flat sum
`y * 64 + (cx + c)`, with no per-cell wrap (R114, D2). -/
def spriteCells (cx : Nat) : Nat → List Byte → List Nat
  | _, [] => []
  | y, row :: rows => rowCells (y * 64 + cx) row ++ spriteCells cx (y + 1) rows

end Sys2Proof.Machine
end

