-- ==== Sys2Proof/Machine/ControlFlow.lean ====
section
/-! DEFINITION. Control transfer (spec/41_control_flow.md). `pc` is the advanced counter (R80). -/

namespace Sys2Proof.Machine

/-- R85 -/
def execRet (s : State) : Host.Outcome State Fault Refusal :=
  if h : s.SP.val = 0 then raise .stackUnderflow (some 0) s
  else .next (s.pop h)

/-- R86 -/
def execJp (nnn : BitVec 12) (s : State) : Host.Outcome State Fault Refusal :=
  .next (s.jump (addressOf nnn))

/-- R87 -/
def execCall (nnn : BitVec 12) (s : State) : Host.Outcome State Fault Refusal :=
  if h : s.SP.val < 16 then .next ((s.push s.pc h).jump (addressOf nnn))
  else raise .stackOverflow (some s.SP.val) s

/-- R88 -/
def execJpV0 (x : Reg) (nnn : BitVec 12) (s : State) : Host.Outcome State Fault Refusal :=
  .next (s.jump (addressOf nnn + (s.jumpOffset x).zeroExtend 16))

/-- R89 -/
def execSeImm (x : Reg) (kk : Byte) (s : State) : Host.Outcome State Fault Refusal :=
  .next (s.skipIf (s.readV x == kk))

/-- R90 -/
def execSneImm (x : Reg) (kk : Byte) (s : State) : Host.Outcome State Fault Refusal :=
  .next (s.skipIf (s.readV x != kk))

/-- R91 -/
def execSeReg (x y : Reg) (s : State) : Host.Outcome State Fault Refusal :=
  .next (s.skipIf (s.readV x == s.readV y))

/-- R92 -/
def execSneReg (x y : Reg) (s : State) : Host.Outcome State Fault Refusal :=
  .next (s.skipIf (s.readV x != s.readV y))

end Sys2Proof.Machine
end

