-- ==== Sys2Proof/Machine/Flags.lean ====
section
/-! DEFINITION. Every flag the core computes, all of them written to `VF` (spec/10_state.md R20, R21). -/

namespace Sys2Proof.Machine

/-- A flag value, 0x00 or 0x01 (R21). -/
def flagByte (b : Bool) : Byte := if b then 1 else 0

/-- `VF <- flag`, always an instruction's last write (R81). -/
def State.writeFlag (b : Bool) (s : State) : State := s.writeV vf (flagByte b)

/-- `ADD Vx, Vy`: 1 iff `a + b > 255` (R101). -/
def carryFlag (a b : Byte) : Bool := decide (a.toNat + b.toNat > 255)

/-- `SUB Vx, Vy`: 1 iff `a > b` (R102; 90_conflicts.md C2). -/
def subFlag (a b : Byte) : Bool := decide (a.toNat > b.toNat)

/-- `SUBN Vx, Vy`: 1 iff `b > a`, or `b >= a` under `subnFlag = ge` (R104). -/
def subnFlag (c : SubnFlag) (a b : Byte) : Bool :=
  match c with
  | .gt => decide (b.toNat > a.toNat)
  | .ge => decide (b.toNat ≥ a.toNat)

/-- `SHR Vx`: bit 0 of the source (R103). -/
def shrFlag (src : Byte) : Bool := decide (src.toNat % 2 = 1)

/-- `SHL Vx`: bit 7 of the source (R105). -/
def shlFlag (src : Byte) : Bool := decide (src.toNat / 128 = 1)

/-- `OR`, `AND`, `XOR`: VF cleared under `logicResetsVF`, otherwise left (R98 to R100). -/
def State.logicFlag (s : State) : State := if s.cfg.logicResetsVF then s.writeFlag false else s

/-- One drawn cell: the cell is toggled, and the collision flag set if it was on (R114). -/
def drawCell (p : Vector Bool 2048 × Bool) (c : Nat) : Vector Bool 2048 × Bool :=
  (toggleCell p.1 c, p.2 || cellOn p.1 c)

/-- The framebuffer and the collision flag after drawing the cells in order (R114). -/
def drawCells (fb : Vector Bool 2048) (cells : List Nat) : Vector Bool 2048 × Bool :=
  cells.foldl drawCell (fb, false)

end Sys2Proof.Machine
end

