-- ==== Sys2Proof/Machine/Display.lean ====
section
/-! DEFINITION. The display instructions (spec/44_display.md). -/

namespace Sys2Proof.Machine

/-- R113 -/
def execCls (s : State) : Host.Outcome State Fault Refusal :=
  .next { s with FB := Vector.replicate 2048 false }

/-- The flat cell indexes that `DRW Vx, Vy, n` draws, in drawing order (R114). -/
def State.drawnCells (s : State) (x y : Reg) (n : Fin 16) : List Nat :=
  spriteCells (s.spriteColumn x) (s.spriteRow y) (s.loadBytes s.I.toNat n.val)

/-- R114: the address check, then the cell-index check, then the drawing, the flag last (R81, R124). -/
def execDrw (x y : Reg) (n : Fin 16) (s : State) : Host.Outcome State Fault Refusal :=
  match blockFault s.I.toNat n.val with
  | some a => raise .addressOutOfRange (some a) s
  | none =>
    match (s.drawnCells x y n).find? fun c => decide (cellCount ≤ c) with
    | some c => raise .displayOutOfRange (some c) s
    | none   =>
      .next ({ s with FB := (drawCells s.FB (s.drawnCells x y n)).1 }.writeFlag (drawCells s.FB (s.drawnCells x y n)).2)

end Sys2Proof.Machine
end

