-- ==== Sys2Proof/Machine/IndexMemory.lean ====
section
/-! DEFINITION. The index register and the memory instructions (spec/43_index_memory.md). Every bounds check stands before the
first write (R81). -/

namespace Sys2Proof.Machine

/-- R107 -/
def execLdI (nnn : BitVec 12) (s : State) : Host.Outcome State Fault Refusal :=
  .next (s.writeI (addressOf nnn))

/-- R108 -/
def execAddI (x : Reg) (s : State) : Host.Outcome State Fault Refusal :=
  .next (s.writeI (s.I + (s.readV x).zeroExtend 16))

/-- R109 -/
def execLdF (x : Reg) (s : State) : Host.Outcome State Fault Refusal :=
  .next (s.writeI (glyphAddress (s.readV x)))

/-- R110 -/
def execLdB (x : Reg) (s : State) : Host.Outcome State Fault Refusal :=
  match blockFault s.I.toNat 3 with
  | some a => raise .addressOutOfRange (some a) s
  | none   => .next (s.storeBytes s.I.toNat (bcdDigits (s.readV x)))

/-- R111 -/
def execStRegs (x : Reg) (s : State) : Host.Outcome State Fault Refusal :=
  match blockFault s.I.toNat (x.val + 1) with
  | some a => raise .addressOutOfRange (some a) s
  | none   => .next ((s.storeBytes s.I.toNat (s.registersUpTo x)).writeI (s.blockNextI x))

/-- R112 -/
def execLdRegs (x : Reg) (s : State) : Host.Outcome State Fault Refusal :=
  match blockFault s.I.toNat (x.val + 1) with
  | some a => raise .addressOutOfRange (some a) s
  | none   => .next ((s.writeVs (s.loadBytes s.I.toNat (x.val + 1))).writeI (s.blockNextI x))

end Sys2Proof.Machine
end

