-- ==== Sys2Proof/Machine/KeypadTimers.lean ====
section
/-! DEFINITION. The keypad and timer instructions (spec/45_timers_keypad.md). The timer step of the cycle is not theirs (R76). -/

namespace Sys2Proof.Machine

/-- R116 -/
def execSkp (x : Reg) (s : State) : Host.Outcome State Fault Refusal :=
  match s.keyOperand x with
  | .ok k    => .next (s.skipIf (s.keyPressed k))
  | .error k => raise .keyOutOfRange (some k) s

/-- R117 -/
def execSknp (x : Reg) (s : State) : Host.Outcome State Fault Refusal :=
  match s.keyOperand x with
  | .ok k    => .next (s.skipIf (!s.keyPressed k))
  | .error k => raise .keyOutOfRange (some k) s

/-- R118 -/
def execLdK (x : Reg) (s : State) : Host.Outcome State Fault Refusal :=
  match s.firstKey with
  | some k => .next (s.writeV x (BitVec.ofNat 8 k.val))
  | none   => .next s.rewind

/-- R119 -/
def execLdFromDT (x : Reg) (s : State) : Host.Outcome State Fault Refusal :=
  .next (s.writeV x s.DT)

/-- R120 -/
def execLdDT (x : Reg) (s : State) : Host.Outcome State Fault Refusal :=
  .next (s.writeDT (s.readV x))

/-- R121 -/
def execLdST (x : Reg) (s : State) : Host.Outcome State Fault Refusal :=
  .next (s.writeST (s.readV x))

end Sys2Proof.Machine
end

