-- ==== Sys2Proof/Machine/LoadArith.lean ====
section
/-! DEFINITION. Register load, arithmetic and logic (spec/42_load_arith.md). A meaning runs with `pc` already advanced (R80). -/

namespace Sys2Proof.Machine

/-- R95 -/
def execLdImm (x : Reg) (kk : Byte) (s : State) : Host.Outcome State Fault Refusal :=
  .next (s.writeV x kk)

/-- R96 -/
def execAddImm (x : Reg) (kk : Byte) (s : State) : Host.Outcome State Fault Refusal :=
  .next (s.writeV x (s.readV x + kk))

/-- R97 -/
def execLdReg (x y : Reg) (s : State) : Host.Outcome State Fault Refusal :=
  .next (s.writeV x (s.readV y))

/-- R98 -/
def execOrReg (x y : Reg) (s : State) : Host.Outcome State Fault Refusal :=
  .next (s.writeV x (s.readV x ||| s.readV y)).logicFlag

/-- R99 -/
def execAndReg (x y : Reg) (s : State) : Host.Outcome State Fault Refusal :=
  .next (s.writeV x (s.readV x &&& s.readV y)).logicFlag

/-- R100 -/
def execXorReg (x y : Reg) (s : State) : Host.Outcome State Fault Refusal :=
  .next (s.writeV x (s.readV x ^^^ s.readV y)).logicFlag

/-- R101 -/
def execAddReg (x y : Reg) (s : State) : Host.Outcome State Fault Refusal :=
  .next ((s.writeV x (s.readV x + s.readV y)).writeFlag (carryFlag (s.readV x) (s.readV y)))

/-- R102 -/
def execSub (x y : Reg) (s : State) : Host.Outcome State Fault Refusal :=
  .next ((s.writeV x (s.readV x - s.readV y)).writeFlag (subFlag (s.readV x) (s.readV y)))

/-- R103 -/
def execShr (x y : Reg) (s : State) : Host.Outcome State Fault Refusal :=
  .next ((s.writeV x (s.shiftOperand x y >>> 1)).writeFlag (shrFlag (s.shiftOperand x y)))

/-- R104 -/
def execSubn (x y : Reg) (s : State) : Host.Outcome State Fault Refusal :=
  .next ((s.writeV x (s.readV y - s.readV x)).writeFlag (subnFlag s.cfg.subnFlag (s.readV x) (s.readV y)))

/-- R105 -/
def execShl (x y : Reg) (s : State) : Host.Outcome State Fault Refusal :=
  .next ((s.writeV x (s.shiftOperand x y <<< 1)).writeFlag (shlFlag (s.shiftOperand x y)))

/-- R106: the drawn byte is a free value (log entry 3). -/
def execRnd (x : Reg) (kk : Byte) (s : State) : Host.Outcome State Fault Refusal :=
  .next (s.drawByte.2.writeV x (s.drawByte.1 &&& kk))

end Sys2Proof.Machine
end

