-- ==== Sys2Proof/Machine/Unmapped.lean ====
section
/-! DEFINITION. The unmapped slots of the four secondary tables (spec/40_cycle.md R79, spec/30_encoding.md R63, R84). -/

namespace Sys2Proof.Machine

/-- Nothing under `Noop`, and `UndefinedInstruction` under `Fault` (R79); the record's word is the fetched one (R122). -/
def unmappedSlot (s : State) : Host.Outcome State Fault Refusal :=
  match s.cfg.unmappedPolicy with
  | .noop  => .next s
  | .fault => raise .undefinedInstruction none s

/-- R79, family 0; every `SYS nnn` word that is neither `CLS` nor `RET` (R84) -/
def execUnmapped0 (_low : BitVec 12) (s : State) : Host.Outcome State Fault Refusal := unmappedSlot s

/-- R79, family 8 -/
def execUnmapped8 (_low : BitVec 12) (s : State) : Host.Outcome State Fault Refusal := unmappedSlot s

/-- R79, family E -/
def execUnmappedE (_low : BitVec 12) (s : State) : Host.Outcome State Fault Refusal := unmappedSlot s

/-- R79, family F -/
def execUnmappedF (_low : BitVec 12) (s : State) : Host.Outcome State Fault Refusal := unmappedSlot s

end Sys2Proof.Machine
end

