-- ==== Sys2Proof/Machine/Cycle.lean ====
section
/-! DEFINITION. The fetch-decode-execute cycle (spec/40_cycle.md R71 to R78). -/

namespace Sys2Proof.Machine

/-- The end of a cycle: the timer step, unless the cycle raised (R76, R78). -/
def State.endCycle (s : State) : State :=
  match s.err with
  | .ok => s.timerStep
  | _   => s

/-- What follows the fetch of the word `w`: advance, decode, execute, timer step (R73 to R77). -/
def runWord (w : Word) (s : State) : Host.Outcome State Fault Refusal :=
  match exec (decodeWord w) s.advance with
  | .next t    => .next t.endCycle
  | .fault r   => .fault r
  | .refused r => .refused r

/-- One cycle of an admitted machine, from the fetch on (R72, R77). -/
def runCycle (s : State) : Host.Outcome State Fault Refusal :=
  match s.fetchAt s.pc with
  | .error a => .next (s.raiseAt s.pc .addressOutOfRange (some a))
  | .ok w    => runWord w s

/-- `cycle()`: admitted with `err = Ok` and `phase = Loaded`; otherwise the core has no step (R71, R125, R141). -/
def cycle (s : State) : Host.Outcome State Fault Refusal :=
  match s.err, s.phase with
  | .ok, .loaded      => runCycle s
  | .ok, .constructed => .refused .cycleBeforeLoad
  | e, _              => .fault (.halted e)

end Sys2Proof.Machine
end

