-- ==== Sys2Proof/Machine/HostInterface.lean ====
section
/-! DEFINITION. The host interface (spec/60_exceptions.md R131 to R135) and the ROM loader (spec/70_reset_and_hazards.md R140). -/

namespace Sys2Proof.Machine

/-- The load address (R44, R70). -/
def romBase : Nat := 0x200

/-- The ROM size limit in bytes (R8, R140). -/
def romLimit (c : Config) : Nat :=
  match c.romMaxBytes with
  | .bytes3583 => 3583
  | .bytes3584 => 3584

/-- The loader on an admitted machine (R140). -/
def loadRom (src : RomSource) (s : State) : State :=
  match src with
  | .notFound  => { s with err := .fileNotFound }
  | .image img =>
    if img.length > romLimit s.cfg then { s with err := .romOverflow, fault := some ⟨none, none, some img.length⟩ }
    else { s.storeBytes romBase img with phase := .loaded }

/-- `load(src)`: admitted with `err = Ok` and `phase = Constructed` (R140, R141). -/
def load (src : RomSource) (s : State) : Host.Outcome State Fault Refusal :=
  match s.err, s.phase with
  | .ok, .constructed => .next (loadRom src s)
  | .ok, .loaded      => .refused .secondLoad
  | e, _              => .fault (.halted e)

/-- `setKey(k, pressed)`: admitted at any time between operations (R131, R132). -/
def setKey (k : Fin 16) (pressed : Bool) (s : State) : State := { s with K := s.K.set k.val pressed }

/-- One host operation that changes the machine (R131). -/
def applyHostOp (op : HostOp) (s : State) : Host.Outcome State Fault Refusal :=
  match op with
  | .load src         => load src s
  | .cycle            => cycle s
  | .setKey k pressed => .next (setKey k pressed s)

/-- The next thing the driver does: the first operation still to come, or with none left, a cycle (R71, R131; log entry 4). -/
def hostTurn (s : State) : Host.Outcome State Fault Refusal :=
  match s.hostOps with
  | []        => cycle s
  | op :: ops => applyHostOp op { s with hostOps := ops }

/-- `readFramebuffer()`: the 2048 cells as 32-bit values, all-ones for on (R29, R133). -/
def readFramebuffer (s : State) : Vector (BitVec 32) 2048 := s.FB.map fun on => if on then 0xFFFFFFFF else 0x00000000

/-- `readStatus()`: the error state and the fault record (R135). -/
def readStatus (s : State) : ErrorState × Option FaultRecord := (s.err, s.fault)

/-- `readTimers()`: `DT` and `ST` (R134). -/
def readTimers (s : State) : Byte × Byte := (s.DT, s.ST)

/-- The tone output (R134, D25). -/
def soundActive (s : State) : Bool := s.ST != 0

end Sys2Proof.Machine
end

