-- ==== Sys2Proof/Machine/Step.lean ====
section
/-! DEFINITION. The step, and the state in which it fetches a given word. -/

namespace Sys2Proof.Machine

/-- One step: the driver's next operation, a cycle unless the host has another one to come (R71, R131). -/
def step (s : State) : Host.Outcome State Fault Refusal := hostTurn s

/-- Where a word is placed so that the next fetch reads it: at `pc`, or at the entry point where no word fits at `pc`. -/
def State.fetchAddress (s : State) : Word := if s.pc.toNat + 1 < memSize then s.pc else resetPC

/-- The state whose very next step fetches and runs the word `w` of `nbits` bits: the word stored at `pc`, the machine loaded
and running, no host operation before the cycle. It stands for the load (R142; log entry 12). -/
def State.withFetchWord (s : State) (nbits w : Nat) : State :=
  let word : Word := BitVec.ofNat 16 (w % 2 ^ nbits)
  { s.storeBytes s.fetchAddress.toNat [highByte word, lowByte word] with
    pc := s.fetchAddress, err := .ok, fault := none, phase := .loaded, hostOps := [] }

end Sys2Proof.Machine
end

