-- ==== Sys2Proof/Safety.lean ====
section
/-! DEFINITION. The terms the statements use: a running machine, the invariant of every reachable state, which words are an
instruction, and what each instruction may write. -/

namespace Sys2Proof.Machine

/-- A cycle is admitted: loaded, and no error (R71). -/
def State.Running (s : State) : Prop := s.err = .ok ∧ s.phase = .loaded

/-- The driver's next operation is a cycle: no host operation comes before it (R131; log entry 4). -/
def State.CycleNext (s : State) : Prop := s.hostOps = []

/-- A run that has met no error: a halted machine is never a successful end (R125). -/
def State.Safe (s : State) : Prop := s.err = .ok

/-- What holds of every reachable state (R32 to R34, R38, R78, R140, R141; the canonical form is the model's, log entry 9). -/
structure State.Inv (s : State) : Prop where
  /-- memory is in its canonical form -/
  canonical : s.memWf = true
  /-- `err = Ok` implies that the fault record is absent (R38) -/
  noRecord : s.err = .ok → s.fault = none
  /-- before a load only the keypad, the error, the record and the host's plans can differ from construction (R139, R141) -/
  asBuilt : s.phase = .constructed →
    s = { State.construct s.cfg with K := s.K, err := s.err, fault := s.fault, hostOps := s.hostOps }
  /-- before a load the only errors are the loader's (R122, R140) -/
  loadErrors : s.phase = .constructed → s.err = .ok ∨ s.err = .fileNotFound ∨ s.err = .romOverflow
  /-- after a load no error is the loader's (R122, R141) -/
  cycleErrors : s.phase = .loaded → s.err ≠ .fileNotFound ∧ s.err ≠ .romOverflow
  /-- an error after the load has a record whose `pc` is the counter, which the raise left at the instruction (R33, R78) -/
  precise : s.phase = .loaded → s.err ≠ .ok → ∃ w v, s.fault = some ⟨some s.pc, w, v⟩

/-- Every word with `w & mask = pattern` is the instruction that `f` reads from its fields (R65). -/
def Encodes (mask pattern : Word) (f : Word → Instr) : Prop := ∀ w : Word, w &&& mask = pattern → decodeWord w = f w

/-- Every byte of memory reads as before. -/
def SameMemory (s t : State) : Prop := ∀ a, t.readByte a = s.readByte a

/-- Every byte of memory outside the `len` bytes from `base` on reads as before. -/
def SameMemoryOutside (base len : Nat) (s t : State) : Prop :=
  ∀ a, a < base ∨ base + len ≤ a → t.readByte a = s.readByte a

/-- Nothing changed but general registers named by `dest`. -/
structure RegisterFrame (dest : Reg → Prop) (s t : State) : Prop where
  registers : ∀ r, ¬ dest r → t.readV r = s.readV r
  rest      : t = { s with V := t.V }
  memory    : SameMemory s t

/-- The state after a handler raised `e`: `pc` back at the instruction, the error and its record written, and nothing else
changed (R13, R78, R123). A handler runs with `pc` two past its instruction (R73). -/
def State.raised (e : ErrorState) (v : Option Nat) (s : State) : State :=
  { s with pc := s.pc - 2, err := e, fault := some ⟨some (s.pc - 2), s.wordAt (s.pc - 2), v⟩ }

/-- What `OR`, `AND` and `XOR` leave: the result in `Vx`, and `VF` cleared last under `logicResetsVF` (R98 to R100). -/
def LogicResult (result : Byte) (x : Reg) (s t : State) : Prop :=
  (s.cfg.logicResetsVF = true → t.readV vf = 0) ∧
  (s.cfg.logicResetsVF = false ∨ x ≠ vf → t.readV x = result) ∧
  RegisterFrame (fun r => r = x ∨ (s.cfg.logicResetsVF = true ∧ r = vf)) s t

/-- A set bit of the sprite that `DRW Vx, Vy, n` draws has the flat cell index `d` (R114). -/
def SpriteHits (s : State) (x y : Reg) (n : Fin 16) (d : Nat) : Prop :=
  ∃ r c, r < n.val ∧ c < 8 ∧ (s.readByte (s.I.toNat + r)).getLsbD (7 - c) = true ∧
    d = ((s.readV y).toNat % 32 + r) * 64 + ((s.readV x).toNat % 64 + c)

/-- The sprite bytes lie inside memory (R114). -/
def SpriteInMemory (s : State) (n : Fin 16) : Prop := n.val = 0 ∨ s.I.toNat + n.val ≤ 0x1000

/-- The general registers an instruction may write, its flag register among them (R19, R21; R98 to R100 for the logic ones). -/
def Instr.writesV (c : Config) : Instr → Reg → Prop
  | .ldImm x _, r | .addImm x _, r | .ldReg x _, r | .rnd x _, r | .ldFromDT x, r | .ldK x, r => r = x
  | .orReg x _, r | .andReg x _, r | .xorReg x _, r => r = x ∨ (c.logicResetsVF = true ∧ r = vf)
  | .addReg x _, r | .sub x _, r | .shr x _, r | .subn x _, r | .shl x _, r => r = x ∨ r = vf
  | .drw _ _ _, r => r = vf
  | .ldRegs x, r => r ≤ x
  | _, _ => False

/-- The instructions that may write `I` (R23). -/
def Instr.writesI (c : Config) : Instr → Prop
  | .ldI _ | .addI _ | .ldF _ => True
  | .stRegs _ | .ldRegs _ => c.loadStoreIncrementsI = true
  | _ => False

/-- The instructions whose handler may write `pc` (R82, R85 to R92, R116 to R118). -/
def Instr.writesPC : Instr → Prop
  | .ret | .jp _ | .call _ | .jpV0 _ _ | .seImm _ _ | .sneImm _ _ | .seReg _ _ | .sneReg _ _ | .skp _ | .sknp _ | .ldK _ => True
  | _ => False

/-- The stack slot an instruction may write: `CALL`'s, at the pointer; `RET` leaves every slot (R24, R87). -/
def Instr.writesSlot (s : State) : Instr → Nat → Prop
  | .call _, j => j = s.SP.val
  | _, _ => False

/-- The instructions that may write the call stack or its pointer (R93). -/
def Instr.writesStack : Instr → Prop
  | .ret | .call _ => True
  | _ => False

/-- What an instruction leaves of memory: all but the block that `LD B, Vx` or `LD [I], Vx` stores at `I`, and everything where
it stores nothing (R48). -/
def Instr.memoryFrame (s t : State) : Instr → Prop
  | .ldB _ => SameMemoryOutside s.I.toNat 3 s t
  | .stRegs x => SameMemoryOutside s.I.toNat (x.val + 1) s t
  | _ => SameMemory s t

/-- The framebuffer cells an instruction may write: all of them, or those a set sprite bit hits (R29, R113, R114). -/
def Instr.writesCell (s : State) : Instr → Nat → Prop
  | .cls, _ => True
  | .drw x y n, d => SpriteHits s x y n d
  | _, _ => False

/-- The instruction writes `DT` (R26). -/
def Instr.writesDT : Instr → Prop
  | .ldDT _ => True
  | _ => False

/-- The instruction writes `ST` (R27). -/
def Instr.writesST : Instr → Prop
  | .ldST _ => True
  | _ => False

/-- The instruction draws a random byte (R35). -/
def Instr.drawsByte : Instr → Prop
  | .rnd _ _ => True
  | _ => False

/-- Everything an instruction does not write is as it was. -/
structure ExecFrame (i : Instr) (s t : State) : Prop where
  registers : ∀ r, ¬ Instr.writesV s.cfg i r → t.readV r = s.readV r
  index     : ¬ Instr.writesI s.cfg i → t.I = s.I
  counter   : ¬ Instr.writesPC i → t.pc = s.pc
  slots     : ∀ j, ¬ Instr.writesSlot s i j → t.S[j]? = s.S[j]?
  pointer   : ¬ Instr.writesStack i → t.SP = s.SP
  delay     : ¬ Instr.writesDT i → t.DT = s.DT
  sound     : ¬ Instr.writesST i → t.ST = s.ST
  memory    : Instr.memoryFrame s t i
  display   : ∀ d : Fin 2048, ¬ Instr.writesCell s i d.val → t.FB[d.val] = s.FB[d.val]
  draws     : ¬ Instr.drawsByte i → t.draws = s.draws
  untouched : t.K = s.K ∧ t.err = s.err ∧ t.fault = s.fault ∧ t.phase = s.phase ∧ t.cfg = s.cfg ∧ t.hostOps = s.hostOps

end Sys2Proof.Machine
end

