-- ==== Sys2Proof/Certificates/Slice0/Obligations.lean ====
section
/-! DEFINITION. The statements for the provers, from the numbered rules of spec/. `exec i s` is a handler's answer in a state
whose `pc` is already two past the instruction (R73, R80). -/

open Sys2Proof Sys2Proof.Machine

/-! ## Encoding -/

/-- Decoding the canonical word of a well-formed instruction gives it back, and so do its two bytes, whatever follows
(R45, R54, R64, R69). -/
def Obligations.DecodeAfterEncode : Prop :=
  ∀ (i : Instr) (rest : List Byte), i.wellFormed = true →
    decodeWord (encode i) = i ∧ decode (encodeBytes i ++ rest) = .ok (i, rest)

/-- R65: a word is decoded into the row whose mask and match it meets, at most one row is met, and a word that meets none is
an unmapped slot. The spec marks the sentence as derived from R64. -/
def Obligations.OpcodeMapDecides : Prop :=
  ∀ w : Word, (decodeWord w).wellFormed = true ∧
    (∀ r ∈ opcodeMap, w &&& r.mask = r.pattern ↔ (decodeWord w).rowNumber = some r.number) ∧
    opcodeMap.Pairwise (fun r r' => ¬ (w &&& r.mask = r.pattern ∧ w &&& r'.mask = r'.pattern)) ∧
    ((∀ r ∈ opcodeMap, w &&& r.mask ≠ r.pattern) ↔ (decodeWord w).rowNumber = none)

/-- R58, R59, R61: the bits a family does not use do not change what a word is, and a low nibble without a handler is an
unmapped slot. The spec marks these sentences as derived from R57. -/
def Obligations.IgnoredBitsDoNotMatter : Prop :=
  ∀ a b c : Reg,
    decodeWord (ofNibbles 0x5 a b c) = .seReg a b ∧ decodeWord (ofNibbles 0x9 a b c) = .sneReg a b ∧
    decodeWord (ofNibbles 0x0 a b 0x0) = .cls ∧ decodeWord (ofNibbles 0x0 a b 0xE) = .ret ∧
    (c ≠ 0x0 → c ≠ 0xE → decodeWord (ofNibbles 0x0 a b c) = .unmapped0 (fieldNNN (ofNibbles 0x0 a b c))) ∧
    decodeWord (ofNibbles 0xE a b 0xE) = .skp a ∧ decodeWord (ofNibbles 0xE a b 0x1) = .sknp a ∧
    (c ≠ 0x1 → c ≠ 0xE → decodeWord (ofNibbles 0xE a b c) = .unmappedE (fieldNNN (ofNibbles 0xE a b c)))

/-- Words written out from the encodings of R65, one or more for each family of the primary table. -/
def Obligations.SampleWordsDecode : Prop :=
  decodeWord 0x00E0 = .cls ∧ decodeWord 0x00EE = .ret ∧ decodeWord 0x1234 = .jp 0x234 ∧ decodeWord 0x2210 = .call 0x210 ∧
  decodeWord 0x3142 = .seImm 1 0x42 ∧ decodeWord 0x4205 = .sneImm 2 0x05 ∧ decodeWord 0x5340 = .seReg 3 4 ∧
  decodeWord 0x6A7B = .ldImm 10 0x7B ∧ decodeWord 0x7102 = .addImm 1 0x02 ∧ decodeWord 0x9340 = .sneReg 3 4 ∧
  decodeWord 0xA300 = .ldI 0x300 ∧
  decodeWord 0x8124 = .addReg 1 2 ∧ decodeWord 0x8127 = .subn 1 2 ∧ decodeWord 0xB300 = .jpV0 3 0x300 ∧
  decodeWord 0xC00F = .rnd 0 0x0F ∧ decodeWord 0xD125 = .drw 1 2 5 ∧ decodeWord 0xE19E = .skp 1 ∧ decodeWord 0xE1A1 = .sknp 1 ∧
  decodeWord 0xF30A = .ldK 3 ∧ decodeWord 0xF155 = .stRegs 1 ∧ decodeWord 0x8008 = .unmapped8 0x008 ∧
  decodeWord 0x0123 = .unmapped0 0x123

/-- Outside the six rows whose decoder ignores bits (1, 2, 7, 19, 24, 25 of R65), encoding a decoded word gives the word back:
no bit of it is dropped (R65, R69). -/
def Obligations.EncodeRestoresFullWords : Prop :=
  ∀ w : Word, (∀ k ∈ [1, 2, 7, 19, 24, 25], (decodeWord w).rowNumber ≠ some k) → encode (decodeWord w) = w

/-! ## The cycle -/

/-- When a cycle is next and the two bytes at `pc` decode to `i`, `exec i` on the state with `pc` advanced by 2 answers a next
state, and the step is that state after the timer step, or that state itself where the handler raised (R45, R73, R74, R76, R77). -/
def Obligations.StepRunsDecodedInstruction : Prop :=
  ∀ (s : State) (i : Instr), s.Running → s.CycleNext → s.pc.toNat + 1 < memSize →
    decode [s.readByte s.pc.toNat, s.readByte (s.pc.toNat + 1)] = .ok (i, []) →
    ∃ t, exec i { s with pc := s.pc + 2 } = .next t ∧
      (t.err = .ok →
        step s = .next { t with DT := if t.DT = 0 then 0 else t.DT - 1, ST := if t.ST = 0 then 0 else t.ST - 1 }) ∧
      (t.err ≠ .ok → step s = .next t)

/-- R45 and R72: the word a cycle fetches is the two bytes at `pc` and `pc + 1`, high byte first; where one of them lies at or
above 0x1000, the cycle raises `AddressOutOfRange` with the first such address, `pc` unchanged and no word recorded. -/
def Obligations.FetchReadsTwoBytesOrRaises : Prop :=
  ∀ s : State,
    (s.pc.toNat + 1 < 0x1000 → ∃ w, s.wordAt s.pc = some w ∧
      w.toNat = (s.readByte s.pc.toNat).toNat * 256 + (s.readByte (s.pc.toNat + 1)).toNat) ∧
    (s.Running → s.CycleNext → ¬ s.pc.toNat + 1 < 0x1000 →
      step s = .next { s with
        err := .addressOutOfRange
        fault := some ⟨some s.pc, none, some (if s.pc.toNat < 0x1000 then s.pc.toNat + 1 else s.pc.toNat)⟩ })

/-- The admission column of R131's table: a step answers a next state exactly when the operation that comes next is admitted
(R71, R125, R141). The list of operations is the model's (log entry 4), and so are the answers to the others (log entry 14). -/
def Obligations.StepAnswersExactlyWhenAdmitted : Prop :=
  ∀ s : State, (∃ t, step s = .next t) ↔
    match s.hostOps with
    | [] | .cycle :: _  => s.err = .ok ∧ s.phase = .loaded
    | .load _ :: _      => s.err = .ok ∧ s.phase = .constructed
    | .setKey _ _ :: _  => True

/-- R125, R141: what a cycle and a load that are not admitted answer, under the model's names (log entry 14). -/
def Obligations.StopsAreNamed : Prop :=
  ∀ (s : State) (src : RomSource),
    (s.err ≠ .ok → cycle s = .fault (.halted s.err) ∧ load src s = .fault (.halted s.err)) ∧
    (s.err = .ok → s.phase = .constructed → cycle s = .refused .cycleBeforeLoad) ∧
    (s.err = .ok → s.phase = .loaded → load src s = .refused .secondLoad)

/-- R78: a cycle that raises leaves the state before it with only `err` and `fault` changed, the record holding the counter
at its start and the word it fetched, if it fetched one. That the raise is a next state is log entry 5. -/
def Obligations.RaisingCycleUndoesItself : Prop :=
  ∀ s t : State, s.Running → s.CycleNext → step s = .next t → t.err ≠ .ok →
    ∃ v, t = { s with err := t.err, fault := some ⟨some s.pc, s.wordAt s.pc, v⟩ }

/-- R32: an error state that is not `Ok` stays, and so does its record. -/
def Obligations.ErrorIsSticky : Prop :=
  ∀ s t : State, s.err ≠ .ok → step s = .next t → t.err = s.err ∧ t.fault = s.fault

/-- The causes of R122 that a cycle has: an error a running machine raises comes from the fetch or from an instruction that
raises it, on the operands the table names, with the value the table gives. That the raise is a next state is log entry 5. -/
def Obligations.ErrorHasItsCause : Prop :=
  ∀ s t : State, s.Running → s.CycleNext → step s = .next t →
    match t.err with
    | .ok => t.fault = s.fault
    | .fileNotFound | .romOverflow => False
    | .addressOutOfRange => ∃ a w, t.fault = some ⟨some s.pc, w, some a⟩ ∧ 0x1000 ≤ a ∧
        ((w = none ∧ ¬ s.pc.toNat + 1 < 0x1000 ∧ a = max s.pc.toNat 0x1000) ∨
          (a = max s.I.toNat 0x1000 ∧ ∃ v, w = some v ∧ s.wordAt s.pc = some v ∧
            ((∃ x, decodeWord v = .ldB x ∧ 0x1000 < s.I.toNat + 3) ∨
             (∃ x, (decodeWord v = .stRegs x ∨ decodeWord v = .ldRegs x) ∧ 0x1000 < s.I.toNat + (x.val + 1)) ∨
             (∃ x y n, decodeWord v = .drw x y n ∧ 0 < n.val ∧ 0x1000 < s.I.toNat + n.val))))
    | .stackOverflow => ∃ v nnn, s.wordAt s.pc = some v ∧ decodeWord v = .call nnn ∧ s.SP.val = 16 ∧
        t.fault = some ⟨some s.pc, some v, some 16⟩
    | .stackUnderflow => ∃ v, s.wordAt s.pc = some v ∧ decodeWord v = .ret ∧ s.SP.val = 0 ∧
        t.fault = some ⟨some s.pc, some v, some 0⟩
    | .keyOutOfRange => ∃ v x, s.wordAt s.pc = some v ∧ (decodeWord v = .skp x ∨ decodeWord v = .sknp x) ∧
        (s.readV x).toNat > 0x0F ∧ t.fault = some ⟨some s.pc, some v, some (s.readV x).toNat⟩
    | .displayOutOfRange => ∃ v x y n d, s.wordAt s.pc = some v ∧ decodeWord v = .drw x y n ∧ SpriteHits s x y n d ∧ 2048 ≤ d ∧
        (∀ e, SpriteHits s x y n e → 2048 ≤ e → d ≤ e) ∧ t.fault = some ⟨some s.pc, some v, some d⟩
    | .undefinedInstruction => ∃ v, s.wordAt s.pc = some v ∧ (decodeWord v).rowNumber = none ∧ s.cfg.unmappedPolicy = .fault ∧
        t.fault = some ⟨some s.pc, some v, none⟩

/-- R76: the timer step runs once in every cycle that does not raise, whatever the instruction, and on the value just written
where the instruction sets the timer; a cycle that raises leaves the timers. -/
def Obligations.TimerStepEveryCycle : Prop :=
  ∀ (s t : State), s.Running → s.CycleNext → step s = .next t →
    (t.err ≠ .ok → t.DT = s.DT ∧ t.ST = s.ST) ∧
    (t.err = .ok → ∃ w, s.wordAt s.pc = some w ∧
      (∀ x, decodeWord w = .ldDT x → t.DT.toNat = (s.readV x).toNat - 1) ∧
      ((∀ x, decodeWord w ≠ .ldDT x) → t.DT.toNat = s.DT.toNat - 1) ∧
      (∀ x, decodeWord w = .ldST x → t.ST.toNat = (s.readV x).toNat - 1) ∧
      ((∀ x, decodeWord w ≠ .ldST x) → t.ST.toNat = s.ST.toNat - 1))

/-- Over `n` cycles without an error in which no `LD DT, Vx` runs, `DT` falls by `n`, down to zero (R76, R120). -/
def Obligations.DelayTimerCountsCycles : Prop :=
  ∀ (n : Nat) (s t : State), s.Running → s.CycleNext → Host.Core.run Sys2Proof.core n s = .next t → t.err = .ok →
    (∀ k u w x, k < n → Host.Core.run Sys2Proof.core k s = .next u → u.wordAt u.pc = some w → decodeWord w ≠ .ldDT x) →
    t.DT.toNat = s.DT.toNat - n

/-- A jump to its own address is idle: for every number of cycles, only the timers change (R83, R86, R76). -/
def Obligations.SelfJumpIsIdle : Prop :=
  ∀ (n : Nat) (s : State) (w : Word) (nnn : BitVec 12), s.Running → s.CycleNext → s.wordAt s.pc = some w →
    decodeWord w = .jp nnn → nnn.toNat = s.pc.toNat →
    Host.Core.run Sys2Proof.core n s =
      .next { s with DT := BitVec.ofNat 8 (s.DT.toNat - n), ST := BitVec.ofNat 8 (s.ST.toNat - n) }

/-! ## Reachable states and the state after construction -/

/-- Every step keeps the invariant of reachable states (R38; the canonical form of memory is the model's, log entry 9). -/
def Obligations.StepKeepsInvariant : Prop :=
  ∀ s t : State, s.Inv → step s = .next t → t.Inv

/-- The machine after construction meets the invariant, under any parameters (R138, R139). -/
def Obligations.ConstructionMeetsInvariant : Prop :=
  (∀ c : Config, (State.construct c).Inv) ∧ State.reset.Inv

/-- R139: the value of every piece of state after construction, under any parameters. -/
def Obligations.ConstructionValues : Prop :=
  ∀ c : Config,
    (∀ x, (State.construct c).readV x = 0) ∧ (State.construct c).I = 0 ∧ (State.construct c).pc = 0x200 ∧
    (∀ j : Fin 16, (State.construct c).S[j.val] = 0) ∧ (State.construct c).SP = 0 ∧
    (State.construct c).DT = 0 ∧ (State.construct c).ST = 0 ∧
    (∀ k : Fin 80, (State.construct c).readByte (0x050 + k.val) = c.fontGlyphs[k.val]) ∧
    (∀ a, a < 0x1000 → (a < 0x050 ∨ 0x0A0 ≤ a) → (State.construct c).readByte a = 0) ∧
    (∀ d : Fin 2048, (State.construct c).FB[d.val] = false) ∧ (∀ k : Fin 16, (State.construct c).K[k.val] = false) ∧
    (State.construct c).err = .ok ∧ (State.construct c).fault = none ∧ (State.construct c).phase = .constructed

/-- The glyph of every digit at `0x050 + 5 k` after construction under the default parameters. The bytes are PRESUMED: the
spec's table is general knowledge (log entry 10). -/
def Obligations.FontGlyphTable : Prop :=
  (List.range 16).map (fun k => State.reset.loadBytes (0x050 + 5 * k) 5) =
    [[0xF0, 0x90, 0x90, 0x90, 0xF0], [0x20, 0x60, 0x20, 0x20, 0x70], [0xF0, 0x10, 0xF0, 0x80, 0xF0], [0xF0, 0x10, 0xF0, 0x10, 0xF0],
     [0x90, 0x90, 0xF0, 0x10, 0x10], [0xF0, 0x80, 0xF0, 0x10, 0xF0], [0xF0, 0x80, 0xF0, 0x90, 0xF0], [0xF0, 0x10, 0x20, 0x40, 0x40],
     [0xF0, 0x90, 0xF0, 0x90, 0xF0], [0xF0, 0x90, 0xF0, 0x10, 0xF0], [0xF0, 0x90, 0xF0, 0x90, 0x90], [0xE0, 0x90, 0xE0, 0x90, 0xE0],
     [0xF0, 0x80, 0x80, 0x80, 0xF0], [0xE0, 0x90, 0x90, 0x90, 0xE0], [0xF0, 0x80, 0xF0, 0x80, 0xF0], [0xF0, 0x80, 0xF0, 0x80, 0x80]]

/-! ## Whole-machine rules -/

/-- The frame of every instruction: a handler raises, or changes nothing but what its instruction may write: in memory the block
it stores at `I`, in the framebuffer the cells it clears or hits, in the stack the slot `CALL` pushes to
(R19, R21, R23, R24, R26, R27, R29, R48, R75, R93). The draw counter, the parameters and the host's list are the model's own (log entries
3, 1, 4). -/
def Obligations.EveryInstructionFrame : Prop :=
  ∀ (i : Instr) (s t : State), exec i s = .next t →
    (∃ e v, e ≠ .ok ∧ t = s.raised e v) ∨ ExecFrame i s t

/-- R93: no instruction but `CALL` and `RET` reads or writes the call stack or its pointer: run with any other stack, it does
the same and leaves that stack. The two runs draw the same byte at an `RND`, which is the model's choice (log entry 3). -/
def Obligations.StackIsPrivateToCallAndRet : Prop :=
  ∀ (i : Instr) (s t : State) (stack : Vector Word 16) (sp : Fin 17), ¬ Instr.writesStack i → exec i s = .next t →
    t.S = s.S ∧ t.SP = s.SP ∧ exec i { s with S := stack, SP := sp } = .next { t with S := stack, SP := sp }

/-- R27: no instruction reads `ST`: run with any other value in it, every instruction does the same to the rest of the state,
and only `LD ST, Vx` overwrites it. The two runs draw the same byte at an `RND`, which is the model's choice (log entry 3). -/
def Obligations.SoundTimerIsNotRead : Prop :=
  ∀ (i : Instr) (s t : State) (b : Byte), exec i s = .next t →
    exec i { s with ST := b } = .next { t with ST := match i with
      | .ldST _ => t.ST
      | _ => b }

/-- R30, R75, R131, R141: a step writes the keypad only as `setKey`, and the phase only as a load; the parameters never change.
The parameters and the list of operations are the model's own (log entries 1, 4). -/
def Obligations.HostOwnedState : Prop :=
  ∀ s t : State, step s = .next t → t.cfg = s.cfg ∧
    (t.K = s.K ∨ ∃ k p ops, s.hostOps = .setKey k p :: ops ∧ t.K = s.K.set k.val p) ∧
    (t.phase = s.phase ∨ (s.phase = .constructed ∧ t.phase = .loaded ∧ ∃ src ops, s.hostOps = .load src :: ops))

/-! ## Control transfer -/

/-- R85 -/
def Obligations.RetPopsOrUnderflows : Prop :=
  Encodes 0xF00F 0x000E (fun _ => .ret) ∧
  ∀ s : State,
    (s.SP.val = 0 → exec .ret s = .next (s.raised .stackUnderflow (some 0))) ∧
    (s.SP.val ≠ 0 → ∃ t, exec .ret s = .next t ∧ t.SP.val = s.SP.val - 1 ∧ s.S[s.SP.val - 1]? = some t.pc ∧
      t = { s with SP := t.SP, pc := t.pc } ∧ SameMemory s t)

/-- R87 -/
def Obligations.CallPushesOrOverflows : Prop :=
  Encodes 0xF000 0x2000 (fun w => .call (fieldNNN w)) ∧
  ∀ (nnn : BitVec 12) (s : State),
    (s.SP.val = 16 → exec (.call nnn) s = .next (s.raised .stackOverflow (some 16))) ∧
    (s.SP.val < 16 → ∃ t, exec (.call nnn) s = .next t ∧ t.S[s.SP.val]? = some s.pc ∧
      (∀ j, j ≠ s.SP.val → t.S[j]? = s.S[j]?) ∧ t.SP.val = s.SP.val + 1 ∧ t.pc.toNat = nnn.toNat ∧
      t = { s with S := t.S, SP := t.SP, pc := t.pc } ∧ SameMemory s t)

/-- A `CALL` and then a `RET` at its target: the counter is at the instruction after the `CALL`, and the stack pointer, the
registers and memory are as before (R85, R87). -/
def Obligations.CallThenRetResumes : Prop :=
  ∀ (s : State) (w w' : Word) (nnn : BitVec 12), s.Running → s.CycleNext → s.SP.val < 16 →
    s.wordAt s.pc = some w → decodeWord w = .call nnn →
    s.wordAt (nnn.zeroExtend 16) = some w' → decodeWord w' = .ret →
    ∃ t u, step s = .next t ∧ step t = .next u ∧ u.pc = s.pc + 2 ∧ u.SP = s.SP ∧ u.V = s.V ∧ u.I = s.I ∧ u.M = s.M ∧ u.FB = s.FB

/-- R86 and R88 -/
def Obligations.JumpTargets : Prop :=
  Encodes 0xF000 0x1000 (fun w => .jp (fieldNNN w)) ∧ Encodes 0xF000 0xB000 (fun w => .jpV0 (fieldX w) (fieldNNN w)) ∧
  ∀ (x : Reg) (nnn : BitVec 12) (s : State),
    (∃ t, exec (.jp nnn) s = .next t ∧ t.pc.toNat = nnn.toNat ∧ t = { s with pc := t.pc } ∧ SameMemory s t) ∧
    (∃ t, exec (.jpV0 x nnn) s = .next t ∧
      (s.cfg.jumpOffsetReg = .v0 → t.pc.toNat = nnn.toNat + (s.readV 0).toNat) ∧
      (s.cfg.jumpOffsetReg = .vx → t.pc.toNat = nnn.toNat + (s.readV x).toNat) ∧
      t = { s with pc := t.pc } ∧ SameMemory s t)

/-- R89, R90, R91 and R92: by 2 more where the condition holds, and nothing at all where it does not. -/
def Obligations.ConditionalSkips : Prop :=
  Encodes 0xF000 0x3000 (fun w => .seImm (fieldX w) (fieldKK w)) ∧ Encodes 0xF000 0x4000 (fun w => .sneImm (fieldX w) (fieldKK w)) ∧
  Encodes 0xF000 0x5000 (fun w => .seReg (fieldX w) (fieldY w)) ∧ Encodes 0xF000 0x9000 (fun w => .sneReg (fieldX w) (fieldY w)) ∧
  ∀ (x y : Reg) (kk : Byte) (s : State),
    exec (.seImm x kk) s = .next (if s.readV x = kk then { s with pc := s.pc + 2 } else s) ∧
    exec (.sneImm x kk) s = .next (if s.readV x = kk then s else { s with pc := s.pc + 2 }) ∧
    exec (.seReg x y) s = .next (if s.readV x = s.readV y then { s with pc := s.pc + 2 } else s) ∧
    exec (.sneReg x y) s = .next (if s.readV x = s.readV y then s else { s with pc := s.pc + 2 })

/-! ## Load, arithmetic and logic -/

/-- R95, R96 and R97 -/
def Obligations.LoadsAndAddImmediate : Prop :=
  Encodes 0xF000 0x6000 (fun w => .ldImm (fieldX w) (fieldKK w)) ∧ Encodes 0xF000 0x7000 (fun w => .addImm (fieldX w) (fieldKK w)) ∧
  Encodes 0xF00F 0x8000 (fun w => .ldReg (fieldX w) (fieldY w)) ∧
  ∀ (x y : Reg) (kk : Byte) (s : State),
    (∃ t, exec (.ldImm x kk) s = .next t ∧ t.readV x = kk ∧ RegisterFrame (· = x) s t) ∧
    (∃ t, exec (.addImm x kk) s = .next t ∧ (t.readV x).toNat = ((s.readV x).toNat + kk.toNat) % 256 ∧ RegisterFrame (· = x) s t) ∧
    (∃ t, exec (.ldReg x y) s = .next t ∧ t.readV x = s.readV y ∧ RegisterFrame (· = x) s t)

/-- R98, R99 and R100 -/
def Obligations.LogicOperations : Prop :=
  Encodes 0xF00F 0x8001 (fun w => .orReg (fieldX w) (fieldY w)) ∧ Encodes 0xF00F 0x8002 (fun w => .andReg (fieldX w) (fieldY w)) ∧
  Encodes 0xF00F 0x8003 (fun w => .xorReg (fieldX w) (fieldY w)) ∧
  ∀ (x y : Reg) (s : State),
    (∃ t, exec (.orReg x y) s = .next t ∧ LogicResult (s.readV x ||| s.readV y) x s t) ∧
    (∃ t, exec (.andReg x y) s = .next t ∧ LogicResult (s.readV x &&& s.readV y) x s t) ∧
    (∃ t, exec (.xorReg x y) s = .next t ∧ LogicResult (s.readV x ^^^ s.readV y) x s t)

/-- R101: the sum modulo 256, and the carry last, so that it stands in `VF` where `x` is 15. -/
def Obligations.AddCarry : Prop :=
  Encodes 0xF00F 0x8004 (fun w => .addReg (fieldX w) (fieldY w)) ∧
  ∀ (x y : Reg) (s : State), ∃ t, exec (.addReg x y) s = .next t ∧
    (x ≠ vf → (t.readV x).toNat = ((s.readV x).toNat + (s.readV y).toNat) % 256) ∧
    t.readV vf = (if (s.readV x).toNat + (s.readV y).toNat > 255 then 1 else 0) ∧
    RegisterFrame (fun r => r = x ∨ r = vf) s t

/-- R102: the difference modulo 256, and the strict comparison of the minuend. -/
def Obligations.SubtractNotBorrow : Prop :=
  Encodes 0xF00F 0x8005 (fun w => .sub (fieldX w) (fieldY w)) ∧
  ∀ (x y : Reg) (s : State), ∃ t, exec (.sub x y) s = .next t ∧
    (x ≠ vf → (t.readV x).toNat = ((s.readV x).toNat + 256 - (s.readV y).toNat) % 256) ∧
    t.readV vf = (if (s.readV x).toNat > (s.readV y).toNat then 1 else 0) ∧
    RegisterFrame (fun r => r = x ∨ r = vf) s t

/-- R104: the reversed difference, and the comparison the parameter `subnFlag` names. -/
def Obligations.ReverseSubtractNotBorrow : Prop :=
  Encodes 0xF00F 0x8007 (fun w => .subn (fieldX w) (fieldY w)) ∧
  ∀ (x y : Reg) (s : State), ∃ t, exec (.subn x y) s = .next t ∧
    (x ≠ vf → (t.readV x).toNat = ((s.readV y).toNat + 256 - (s.readV x).toNat) % 256) ∧
    (s.cfg.subnFlag = .gt → t.readV vf = (if (s.readV y).toNat > (s.readV x).toNat then 1 else 0)) ∧
    (s.cfg.subnFlag = .ge → t.readV vf = (if (s.readV y).toNat ≥ (s.readV x).toNat then 1 else 0)) ∧
    RegisterFrame (fun r => r = x ∨ r = vf) s t

/-- R103 and R105: the source is the register `shiftSource` names, and the bit shifted out goes to `VF` last. -/
def Obligations.ShiftsReportTheLostBit : Prop :=
  Encodes 0xF00F 0x8006 (fun w => .shr (fieldX w) (fieldY w)) ∧ Encodes 0xF00F 0x800E (fun w => .shl (fieldX w) (fieldY w)) ∧
  ∀ (x y : Reg) (s : State) (src : Byte),
    (s.cfg.shiftSource = .vx ∧ src = s.readV x) ∨ (s.cfg.shiftSource = .vy ∧ src = s.readV y) →
    (∃ t, exec (.shr x y) s = .next t ∧ (x ≠ vf → (t.readV x).toNat = src.toNat / 2) ∧
      (t.readV vf).toNat = src.toNat % 2 ∧ RegisterFrame (fun r => r = x ∨ r = vf) s t) ∧
    (∃ t, exec (.shl x y) s = .next t ∧ (x ≠ vf → (t.readV x).toNat = src.toNat * 2 % 256) ∧
      (t.readV vf).toNat = src.toNat / 128 ∧ RegisterFrame (fun r => r = x ∨ r = vf) s t)

/-- `RND Vx, kk` puts the drawn byte masked by `kk` into `Vx` (R106). The byte is a free value, and the counter of draws is the
model's own (log entry 3). -/
def Obligations.RandomByteMasked : Prop :=
  Encodes 0xF000 0xC000 (fun w => .rnd (fieldX w) (fieldKK w)) ∧
  ∀ (x : Reg) (kk : Byte) (s : State), ∃ t, exec (.rnd x kk) s = .next t ∧
    t.readV x = Config.randomByte s.draws &&& kk ∧ t.readV x &&& ~~~kk = 0 ∧ t.draws = s.draws + 1 ∧
    (∀ r, r ≠ x → t.readV r = s.readV r) ∧ t = { s with V := t.V, draws := t.draws } ∧ SameMemory s t

/-! ## Index register and memory -/

/-- R107, R108 and R109 -/
def Obligations.IndexRegisterWrites : Prop :=
  Encodes 0xF000 0xA000 (fun w => .ldI (fieldNNN w)) ∧ Encodes 0xF0FF 0xF01E (fun w => .addI (fieldX w)) ∧
  Encodes 0xF0FF 0xF029 (fun w => .ldF (fieldX w)) ∧
  ∀ (nnn : BitVec 12) (x : Reg) (s : State),
    (∃ t, exec (.ldI nnn) s = .next t ∧ t.I.toNat = nnn.toNat ∧ t = { s with I := t.I } ∧ SameMemory s t) ∧
    (∃ t, exec (.addI x) s = .next t ∧ t.I.toNat = (s.I.toNat + (s.readV x).toNat) % 65536 ∧ t = { s with I := t.I } ∧
      SameMemory s t) ∧
    (∃ t, exec (.ldF x) s = .next t ∧ t.I.toNat = 0x050 + 5 * (s.readV x).toNat ∧ t = { s with I := t.I } ∧ SameMemory s t)

/-- R110. The bytes are read back in any state whose memory is canonical (log entry 9), as it is in every reachable one. -/
def Obligations.BcdDigitsStored : Prop :=
  Encodes 0xF0FF 0xF033 (fun w => .ldB (fieldX w)) ∧
  ∀ (x : Reg) (s : State),
    (0x1000 ≤ s.I.toNat + 2 → exec (.ldB x) s = .next (s.raised .addressOutOfRange (some (max s.I.toNat 0x1000)))) ∧
    (s.I.toNat + 2 < 0x1000 → ∃ t, exec (.ldB x) s = .next t ∧
      (s.memWf = true →
        (t.readByte s.I.toNat).toNat = (s.readV x).toNat / 100 ∧
        (t.readByte (s.I.toNat + 1)).toNat = (s.readV x).toNat / 10 % 10 ∧
        (t.readByte (s.I.toNat + 2)).toNat = (s.readV x).toNat % 10) ∧
      SameMemoryOutside s.I.toNat 3 s t ∧ t = { s with M := t.M })

/-- R111. The bytes are read back in any state whose memory is canonical (log entry 9), as it is in every reachable one. -/
def Obligations.RegistersStored : Prop :=
  Encodes 0xF0FF 0xF055 (fun w => .stRegs (fieldX w)) ∧
  ∀ (x : Reg) (s : State),
    (0x1000 ≤ s.I.toNat + x.val → exec (.stRegs x) s = .next (s.raised .addressOutOfRange (some (max s.I.toNat 0x1000)))) ∧
    (s.I.toNat + x.val < 0x1000 → ∃ t, exec (.stRegs x) s = .next t ∧
      (s.memWf = true → ∀ k : Reg, k ≤ x → t.readByte (s.I.toNat + k.val) = s.readV k) ∧
      SameMemoryOutside s.I.toNat (x.val + 1) s t ∧
      t.I.toNat = (if s.cfg.loadStoreIncrementsI then (s.I.toNat + x.val + 1) % 65536 else s.I.toNat) ∧
      t = { s with M := t.M, I := t.I })

/-- R112 -/
def Obligations.RegistersLoaded : Prop :=
  Encodes 0xF0FF 0xF065 (fun w => .ldRegs (fieldX w)) ∧
  ∀ (x : Reg) (s : State),
    (0x1000 ≤ s.I.toNat + x.val → exec (.ldRegs x) s = .next (s.raised .addressOutOfRange (some (max s.I.toNat 0x1000)))) ∧
    (s.I.toNat + x.val < 0x1000 → ∃ t, exec (.ldRegs x) s = .next t ∧
      (∀ k : Reg, k ≤ x → t.readV k = s.readByte (s.I.toNat + k.val)) ∧ (∀ r : Reg, x < r → t.readV r = s.readV r) ∧
      t.I.toNat = (if s.cfg.loadStoreIncrementsI then (s.I.toNat + x.val + 1) % 65536 else s.I.toNat) ∧
      t = { s with V := t.V, I := t.I } ∧ SameMemory s t)

/-- Registers stored and loaded again through an unchanged `I` come back, whatever the registers held in between (R111, R112). -/
def Obligations.StoreThenLoadRestores : Prop :=
  ∀ (x : Reg) (s t u : State) (regs : Vector Byte 16), s.memWf = true → s.cfg.loadStoreIncrementsI = false →
    s.I.toNat + x.val < 0x1000 → exec (.stRegs x) s = .next t → exec (.ldRegs x) { t with V := regs } = .next u →
    (∀ k : Reg, k ≤ x → u.readV k = s.readV k) ∧ (∀ r : Reg, x < r → u.readV r = regs[r.val])

/-- A stored pair of registers is what the very next fetch reads at its address (R46, R52). -/
def Obligations.StoreSeenByFetch : Prop :=
  ∀ (x : Reg) (s t : State) (p : Word) (k : Nat), s.memWf = true → s.I.toNat + x.val < 0x1000 →
    exec (.stRegs x) s = .next t → p.toNat = s.I.toNat + k → (hk : k + 1 ≤ x.val) →
    t.fetchAt p = .ok (wordOfBytes (s.readV ⟨k, by omega⟩) (s.readV ⟨k + 1, by omega⟩))

/-! ## Display -/

/-- R113 -/
def Obligations.ClearScreen : Prop :=
  Encodes 0xF00F 0x0000 (fun _ => .cls) ∧
  ∀ s : State, ∃ t, exec .cls s = .next t ∧ (∀ d : Fin 2048, t.FB[d.val] = false) ∧ t = { s with FB := t.FB } ∧ SameMemory s t

/-- R114: the two errors in their order, and otherwise exactly the cells hit by a set bit are flipped and `VF` tells whether
one of them was on. -/
def Obligations.DrawSprite : Prop :=
  Encodes 0xF000 0xD000 (fun w => .drw (fieldX w) (fieldY w) (fieldN w)) ∧
  ∀ (x y : Reg) (n : Fin 16) (s : State),
    (¬ SpriteInMemory s n → exec (.drw x y n) s = .next (s.raised .addressOutOfRange (some (max s.I.toNat 0x1000)))) ∧
    (∀ d, SpriteInMemory s n → SpriteHits s x y n d → 2048 ≤ d → (∀ e, SpriteHits s x y n e → 2048 ≤ e → d ≤ e) →
      exec (.drw x y n) s = .next (s.raised .displayOutOfRange (some d))) ∧
    (SpriteInMemory s n → (∀ d, SpriteHits s x y n d → d < 2048) → ∃ t, exec (.drw x y n) s = .next t ∧
      (∀ d : Fin 2048, SpriteHits s x y n d.val → t.FB[d.val] = !s.FB[d.val]) ∧
      (∀ d : Fin 2048, ¬ SpriteHits s x y n d.val → t.FB[d.val] = s.FB[d.val]) ∧
      ((∃ d : Fin 2048, SpriteHits s x y n d.val ∧ s.FB[d.val] = true) → t.readV vf = 1) ∧
      ((∀ d : Fin 2048, SpriteHits s x y n d.val → s.FB[d.val] = false) → t.readV vf = 0) ∧
      (∀ r, r ≠ vf → t.readV r = s.readV r) ∧ t = { s with V := t.V, FB := t.FB } ∧ SameMemory s t)

/-- The same sprite drawn at the same coordinates twice in a row restores every cell; where the first draw met only cells that
are off it reports 0, and the second draw of a sprite with a set bit then reports 1 (R114, R115 as read in log entry 13). Between
the draws anything but the framebuffer, the coordinates and the sprite may change. -/
def Obligations.DrawTwiceRestores : Prop :=
  ∀ (x y x' y' : Reg) (n : Fin 16) (s t s' : State), SpriteInMemory s n → (∀ d, SpriteHits s x y n d → d < 2048) →
    exec (.drw x y n) s = .next t →
    s'.FB = t.FB → s'.I = s.I → SameMemory s s' →
    (s'.readV x').toNat % 64 = (s.readV x).toNat % 64 → (s'.readV y').toNat % 32 = (s.readV y).toNat % 32 →
    ∃ u, exec (.drw x' y' n) s' = .next u ∧ u.FB = s.FB ∧
      ((∀ d : Fin 2048, SpriteHits s x y n d.val → s.FB[d.val] = false) →
        t.readV vf = 0 ∧ ((∃ d, SpriteHits s x y n d) → u.readV vf = 1))

/-! ## Keypad and timers -/

/-- R116 and R117 -/
def Obligations.KeypadSkips : Prop :=
  Encodes 0xF00F 0xE00E (fun w => .skp (fieldX w)) ∧ Encodes 0xF00F 0xE001 (fun w => .sknp (fieldX w)) ∧
  ∀ (x : Reg) (s : State),
    ((s.readV x).toNat > 15 →
      exec (.skp x) s = .next (s.raised .keyOutOfRange (some (s.readV x).toNat)) ∧
      exec (.sknp x) s = .next (s.raised .keyOutOfRange (some (s.readV x).toNat))) ∧
    (∀ k : Fin 16, (s.readV x).toNat = k.val →
      exec (.skp x) s = .next (if s.K[k.val] = true then { s with pc := s.pc + 2 } else s) ∧
      exec (.sknp x) s = .next (if s.K[k.val] = true then s else { s with pc := s.pc + 2 }))

/-- R118: the lowest pressed key, or the same instruction again. -/
def Obligations.KeypadWait : Prop :=
  Encodes 0xF0FF 0xF00A (fun w => .ldK (fieldX w)) ∧
  ∀ (x : Reg) (s : State),
    ((∀ k : Fin 16, s.K[k.val] = false) → exec (.ldK x) s = .next { s with pc := s.pc - 2 }) ∧
    (∀ k : Fin 16, s.K[k.val] = true → (∀ j : Fin 16, j < k → s.K[j.val] = false) →
      ∃ t, exec (.ldK x) s = .next t ∧ (t.readV x).toNat = k.val ∧ RegisterFrame (· = x) s t)

/-- While no key is pressed, any number of cycles of a waiting program leave everything but the timers as it was (R118, R129). -/
def Obligations.KeypadWaitHoldsTheProgram : Prop :=
  ∀ (n : Nat) (s : State) (w : Word) (x : Reg), s.Running → s.CycleNext → s.wordAt s.pc = some w → decodeWord w = .ldK x →
    (∀ k : Fin 16, s.K[k.val] = false) →
    Host.Core.run Sys2Proof.core n s =
      .next { s with DT := BitVec.ofNat 8 (s.DT.toNat - n), ST := BitVec.ofNat 8 (s.ST.toNat - n) }

/-- R119, R120 and R121, before the timer step of the cycle. -/
def Obligations.TimerInstructions : Prop :=
  Encodes 0xF0FF 0xF007 (fun w => .ldFromDT (fieldX w)) ∧ Encodes 0xF0FF 0xF015 (fun w => .ldDT (fieldX w)) ∧
  Encodes 0xF0FF 0xF018 (fun w => .ldST (fieldX w)) ∧
  ∀ (x : Reg) (s : State),
    (∃ t, exec (.ldFromDT x) s = .next t ∧ t.readV x = s.DT ∧ RegisterFrame (· = x) s t) ∧
    exec (.ldDT x) s = .next { s with DT := s.readV x } ∧ exec (.ldST x) s = .next { s with ST := s.readV x }

/-! ## Unmapped slots and the host interface -/

/-- R79: an unmapped slot of each family, under each policy. -/
def Obligations.UnmappedSlots : Prop :=
  ∀ (low : BitVec 12) (s : State), ∀ i ∈ [Instr.unmapped0 low, .unmapped8 low, .unmappedE low, .unmappedF low],
    (s.cfg.unmappedPolicy = .noop → exec i s = .next s) ∧
    (s.cfg.unmappedPolicy = .fault → exec i s = .next (s.raised .undefinedInstruction none))

/-- R140. The bytes are read back in any state whose memory is canonical (log entry 9), as it is in every reachable one. -/
def Obligations.LoaderLoadsOrFails : Prop :=
  ∀ (s : State) (limit : Nat), s.err = .ok → s.phase = .constructed →
    (s.cfg.romMaxBytes = .bytes3583 ∧ limit = 3583) ∨ (s.cfg.romMaxBytes = .bytes3584 ∧ limit = 3584) →
    load .notFound s = .next { s with err := .fileNotFound } ∧
    ∀ img : List Byte,
      (img.length > limit → ∃ t, load (.image img) s = .next t ∧ t.err = .romOverflow ∧
        t.fault.bind (·.value) = some img.length ∧ t = { s with err := t.err, fault := t.fault } ∧ SameMemory s t) ∧
      (img.length ≤ limit → ∃ t, load (.image img) s = .next t ∧ t.phase = .loaded ∧
        (s.memWf = true → ∀ k, (h : k < img.length) → t.readByte (0x200 + k) = img[k]) ∧
        SameMemoryOutside 0x200 img.length s t ∧ t = { s with M := t.M, phase := t.phase })

/-- A host operation that comes next is what the step does, with the ones after it still to come (R131, R132; the list of
operations is the model's own, log entry 4). -/
def Obligations.HostOperationsComeFirst : Prop :=
  ∀ (s : State) (ops : List HostOp),
    (∀ k p, s.hostOps = .setKey k p :: ops → step s = .next { s with K := s.K.set k.val p, hostOps := ops }) ∧
    (∀ src, s.hostOps = .load src :: ops → step s = load src { s with hostOps := ops }) ∧
    (s.hostOps = .cycle :: ops → step s = cycle { s with hostOps := ops }) ∧
    (s.hostOps = [] → step s = cycle s)

/-- R133, R134 and R135: what the host reads; `soundActive` is the spec's general knowledge (log entry 19). -/
def Obligations.HostReads : Prop :=
  ∀ s : State,
    (∀ d : Fin 2048, (readFramebuffer s)[d.val] = if s.FB[d.val] = true then 0xFFFFFFFF else 0x00000000) ∧
    readTimers s = (s.DT, s.ST) ∧ (soundActive s = true ↔ s.ST ≠ 0) ∧ readStatus s = (s.err, s.fault)

/-- The numeric codes of R122. -/
def Obligations.ErrorCodes : Prop :=
  [ErrorState.ok, .fileNotFound, .undefinedInstruction, .romOverflow, .addressOutOfRange, .stackOverflow, .stackUnderflow,
    .keyOutOfRange, .displayOutOfRange].map ErrorState.code = [0, 1, 2, 3, 4, 5, 6, 7, 8]
end

