-- ==== Sys2Proof/Laws/Decode.lean ====
section
/-! SUPPORT. Fields and masks as arithmetic, and which words the decoder reads as each instruction (R65). -/

namespace Sys2Proof

/-! ### Fields -/

theorem field_lt (w : Word) (hi lo : Nat) : field w hi lo < 2 ^ (hi + 1 - lo) := Nat.mod_lt _ (Nat.two_pow_pos _)

theorem family_eq (w : Word) : field w 15 12 = w.toNat / 4096 := by
  have := w.isLt
  simp only [field]
  omega

theorem lowNibble_eq (w : Word) : field w 3 0 = w.toNat % 16 := by simp [field]

theorem lowByteField_eq (w : Word) : field w 7 0 = w.toNat % 256 := by simp [field]

theorem fieldX_val (w : Word) : (fieldX w).val = w.toNat / 256 % 16 := by simp [fieldX, field]

theorem fieldY_val (w : Word) : (fieldY w).val = w.toNat / 16 % 16 := by simp [fieldY, field]

theorem fieldN_val (w : Word) : (fieldN w).val = w.toNat % 16 := by simp [fieldN, field]

theorem fieldKK_toNat (w : Word) : (fieldKK w).toNat = w.toNat % 256 := by simp [fieldKK, field]

theorem fieldNNN_toNat (w : Word) : (fieldNNN w).toNat = w.toNat % 4096 := by simp [fieldNNN, field]

theorem fieldX_eq {w : Word} {x : Reg} (h : w.toNat / 256 % 16 = x.val) : fieldX w = x := Fin.ext ((fieldX_val w).trans h)

theorem fieldY_eq {w : Word} {y : Reg} (h : w.toNat / 16 % 16 = y.val) : fieldY w = y := Fin.ext ((fieldY_val w).trans h)

theorem fieldN_eq {w : Word} {n : Fin 16} (h : w.toNat % 16 = n.val) : fieldN w = n := Fin.ext ((fieldN_val w).trans h)

theorem fieldKK_eq {w : Word} {kk : Byte} (h : w.toNat % 256 = kk.toNat) : fieldKK w = kk :=
  BitVec.eq_of_toNat_eq ((fieldKK_toNat w).trans h)

theorem fieldNNN_eq {w : Word} {nnn : BitVec 12} (h : w.toNat % 4096 = nnn.toNat) : fieldNNN w = nnn :=
  BitVec.eq_of_toNat_eq ((fieldNNN_toNat w).trans h)

/-- The two bytes of a word make it again. -/
theorem wordOfBytes_high_low (w : Word) : wordOfBytes (highByte w) (lowByte w) = w := by
  have := w.isLt
  apply BitVec.eq_of_toNat_eq
  simp [wordOfBytes, highByte, lowByte, field]
  omega

/-! ### Masks -/

/-- The mask of the family nibble keeps it in place. -/
theorem and_family_toNat (w : Word) : (w &&& 0xF000#16).toNat = w.toNat / 4096 * 4096 := by
  have h : w &&& 0xF000#16 = (w >>> 12) <<< 12 := by
    apply BitVec.eq_of_getLsbD_eq
    intro i hi
    simp only [BitVec.getLsbD_and, BitVec.getLsbD_shiftLeft, BitVec.getLsbD_ushiftRight, hi]
    interval_cases i <;> simp [BitVec.getLsbD] <;> intro _ <;> decide
  have := w.isLt
  rw [h]
  simp [Nat.shiftRight_eq_div_pow, Nat.shiftLeft_eq]
  omega

/-- A mask of the family nibble and the `k` low bits keeps both. -/
theorem and_family_low_toNat (w : Word) (k : Nat) (hk : k ≤ 12) :
    (w &&& (0xF000#16 ||| BitVec.ofNat 16 (2 ^ k - 1))).toNat = w.toNat / 4096 * 4096 + w.toNat % 2 ^ k := by
  have hp : 2 ^ k ≤ 2 ^ 12 := Nat.pow_le_pow_right (by decide) hk
  have hpos := Nat.two_pow_pos k
  have hlow : w.toNat % 2 ^ k < 2 ^ 12 := Nat.lt_of_lt_of_le (Nat.mod_lt _ hpos) hp
  have hm : (2 ^ k - 1) % 2 ^ 16 = 2 ^ k - 1 := Nat.mod_eq_of_lt (by omega)
  rw [BitVec.and_or_distrib_left, BitVec.toNat_or, and_family_toNat, BitVec.toNat_and, BitVec.toNat_ofNat, hm,
    Nat.and_two_pow_sub_one_eq_mod]
  have := Nat.two_pow_add_eq_or_of_lt hlow (w.toNat / 4096)
  rw [Nat.mul_comm _ 4096]
  exact this.symm

theorem and_F00F_toNat (w : Word) : (w &&& 0xF00F#16).toNat = w.toNat / 4096 * 4096 + w.toNat % 16 :=
  and_family_low_toNat w 4 (by decide)

theorem and_F0FF_toNat (w : Word) : (w &&& 0xF0FF#16).toNat = w.toNat / 4096 * 4096 + w.toNat % 256 :=
  and_family_low_toNat w 8 (by decide)

/-- A word selects a row of mask F000 by its family. -/
theorem and_F000_eq_iff (w p : Word) : w &&& 0xF000#16 = p ↔ w.toNat / 4096 * 4096 = p.toNat := by
  rw [← and_family_toNat]
  exact ⟨congrArg _, BitVec.eq_of_toNat_eq⟩

/-- A word selects a row of mask F00F by its family and its low nibble. -/
theorem and_F00F_eq_iff (w p : Word) : w &&& 0xF00F#16 = p ↔ w.toNat / 4096 * 4096 + w.toNat % 16 = p.toNat := by
  rw [← and_F00F_toNat]
  exact ⟨congrArg _, BitVec.eq_of_toNat_eq⟩

/-- A word selects a row of mask F0FF by its family and its low byte. -/
theorem and_F0FF_eq_iff (w p : Word) : w &&& 0xF0FF#16 = p ↔ w.toNat / 4096 * 4096 + w.toNat % 256 = p.toNat := by
  rw [← and_F0FF_toNat]
  exact ⟨congrArg _, BitVec.eq_of_toNat_eq⟩

/-! ### The decoder by family and sub-code -/

/-- The family nibble of a word that selects a row. -/
theorem family_of_selects {w : Word} {f : Nat} (h : w.toNat / 4096 * 4096 = f * 4096) : field w 15 12 = f := by
  rw [family_eq]; omega

end Sys2Proof

namespace Sys2Proof.Machine

/-- A family that a direct handler serves, whatever the other bits (R58). -/
theorem encodes_family {p : Word} {f : Word → Instr} {k : Nat} (hp : p.toNat = k * 4096)
    (h : ∀ w, field w 15 12 = k → decodeWord w = f w) : Encodes 0xF000 p f := by
  intro w hw
  have := (and_F000_eq_iff w p).1 hw
  exact h w (by rw [family_eq]; omega)

/-- A family keyed by the low nibble alone (R59 to R61). -/
theorem encodes_nibble {p : Word} {f : Word → Instr} {k n : Nat} (hn : n < 16) (hp : p.toNat = k * 4096 + n)
    (h : ∀ w, field w 15 12 = k → field w 3 0 = n → decodeWord w = f w) : Encodes 0xF00F p f := by
  intro w hw
  have := (and_F00F_eq_iff w p).1 hw
  exact h w (by rw [family_eq]; omega) (by rw [lowNibble_eq]; omega)

/-- A family keyed by the low byte (R62). -/
theorem encodes_byte {p : Word} {f : Word → Instr} {k b : Nat} (hb : b < 256) (hp : p.toNat = k * 4096 + b)
    (h : ∀ w, field w 15 12 = k → field w 7 0 = b → decodeWord w = f w) : Encodes 0xF0FF p f := by
  intro w hw
  have := (and_F0FF_eq_iff w p).1 hw
  exact h w (by rw [family_eq]; omega) (by rw [lowByteField_eq]; omega)

theorem encodes_cls : Encodes 0xF00F 0x0000 (fun _ => .cls) :=
  encodes_nibble (k := 0x0) (n := 0x0) (by decide) rfl fun w h h' => by simp only [decodeWord, h, decodeFamily0, h']

theorem encodes_ret : Encodes 0xF00F 0x000E (fun _ => .ret) :=
  encodes_nibble (k := 0x0) (n := 0xE) (by decide) rfl fun w h h' => by simp only [decodeWord, h, decodeFamily0, h']

theorem encodes_jp : Encodes 0xF000 0x1000 (fun w => .jp (fieldNNN w)) :=
  encodes_family (k := 0x1) rfl fun w h => by simp only [decodeWord, h]

theorem encodes_call : Encodes 0xF000 0x2000 (fun w => .call (fieldNNN w)) :=
  encodes_family (k := 0x2) rfl fun w h => by simp only [decodeWord, h]

theorem encodes_seImm : Encodes 0xF000 0x3000 (fun w => .seImm (fieldX w) (fieldKK w)) :=
  encodes_family (k := 0x3) rfl fun w h => by simp only [decodeWord, h]

theorem encodes_sneImm : Encodes 0xF000 0x4000 (fun w => .sneImm (fieldX w) (fieldKK w)) :=
  encodes_family (k := 0x4) rfl fun w h => by simp only [decodeWord, h]

theorem encodes_seReg : Encodes 0xF000 0x5000 (fun w => .seReg (fieldX w) (fieldY w)) :=
  encodes_family (k := 0x5) rfl fun w h => by simp only [decodeWord, h]

theorem encodes_ldImm : Encodes 0xF000 0x6000 (fun w => .ldImm (fieldX w) (fieldKK w)) :=
  encodes_family (k := 0x6) rfl fun w h => by simp only [decodeWord, h]

theorem encodes_addImm : Encodes 0xF000 0x7000 (fun w => .addImm (fieldX w) (fieldKK w)) :=
  encodes_family (k := 0x7) rfl fun w h => by simp only [decodeWord, h]

theorem encodes_ldReg : Encodes 0xF00F 0x8000 (fun w => .ldReg (fieldX w) (fieldY w)) :=
  encodes_nibble (k := 0x8) (n := 0x0) (by decide) rfl fun w h h' => by simp only [decodeWord, h, decodeFamily8, h']

theorem encodes_orReg : Encodes 0xF00F 0x8001 (fun w => .orReg (fieldX w) (fieldY w)) :=
  encodes_nibble (k := 0x8) (n := 0x1) (by decide) rfl fun w h h' => by simp only [decodeWord, h, decodeFamily8, h']

theorem encodes_andReg : Encodes 0xF00F 0x8002 (fun w => .andReg (fieldX w) (fieldY w)) :=
  encodes_nibble (k := 0x8) (n := 0x2) (by decide) rfl fun w h h' => by simp only [decodeWord, h, decodeFamily8, h']

theorem encodes_xorReg : Encodes 0xF00F 0x8003 (fun w => .xorReg (fieldX w) (fieldY w)) :=
  encodes_nibble (k := 0x8) (n := 0x3) (by decide) rfl fun w h h' => by simp only [decodeWord, h, decodeFamily8, h']

theorem encodes_addReg : Encodes 0xF00F 0x8004 (fun w => .addReg (fieldX w) (fieldY w)) :=
  encodes_nibble (k := 0x8) (n := 0x4) (by decide) rfl fun w h h' => by simp only [decodeWord, h, decodeFamily8, h']

theorem encodes_sub : Encodes 0xF00F 0x8005 (fun w => .sub (fieldX w) (fieldY w)) :=
  encodes_nibble (k := 0x8) (n := 0x5) (by decide) rfl fun w h h' => by simp only [decodeWord, h, decodeFamily8, h']

theorem encodes_shr : Encodes 0xF00F 0x8006 (fun w => .shr (fieldX w) (fieldY w)) :=
  encodes_nibble (k := 0x8) (n := 0x6) (by decide) rfl fun w h h' => by simp only [decodeWord, h, decodeFamily8, h']

theorem encodes_subn : Encodes 0xF00F 0x8007 (fun w => .subn (fieldX w) (fieldY w)) :=
  encodes_nibble (k := 0x8) (n := 0x7) (by decide) rfl fun w h h' => by simp only [decodeWord, h, decodeFamily8, h']

theorem encodes_shl : Encodes 0xF00F 0x800E (fun w => .shl (fieldX w) (fieldY w)) :=
  encodes_nibble (k := 0x8) (n := 0xE) (by decide) rfl fun w h h' => by simp only [decodeWord, h, decodeFamily8, h']

theorem encodes_sneReg : Encodes 0xF000 0x9000 (fun w => .sneReg (fieldX w) (fieldY w)) :=
  encodes_family (k := 0x9) rfl fun w h => by simp only [decodeWord, h]

theorem encodes_ldI : Encodes 0xF000 0xA000 (fun w => .ldI (fieldNNN w)) :=
  encodes_family (k := 0xA) rfl fun w h => by simp only [decodeWord, h]

theorem encodes_jpV0 : Encodes 0xF000 0xB000 (fun w => .jpV0 (fieldX w) (fieldNNN w)) :=
  encodes_family (k := 0xB) rfl fun w h => by simp only [decodeWord, h]

theorem encodes_rnd : Encodes 0xF000 0xC000 (fun w => .rnd (fieldX w) (fieldKK w)) :=
  encodes_family (k := 0xC) rfl fun w h => by simp only [decodeWord, h]

theorem encodes_drw : Encodes 0xF000 0xD000 (fun w => .drw (fieldX w) (fieldY w) (fieldN w)) :=
  encodes_family (k := 0xD) rfl fun w h => by simp only [decodeWord, h]

theorem encodes_skp : Encodes 0xF00F 0xE00E (fun w => .skp (fieldX w)) :=
  encodes_nibble (k := 0xE) (n := 0xE) (by decide) rfl fun w h h' => by simp only [decodeWord, h, decodeFamilyE, h']

theorem encodes_sknp : Encodes 0xF00F 0xE001 (fun w => .sknp (fieldX w)) :=
  encodes_nibble (k := 0xE) (n := 0x1) (by decide) rfl fun w h h' => by simp only [decodeWord, h, decodeFamilyE, h']

theorem encodes_ldFromDT : Encodes 0xF0FF 0xF007 (fun w => .ldFromDT (fieldX w)) :=
  encodes_byte (k := 0xF) (b := 0x07) (by decide) rfl fun w h h' => by simp only [decodeWord, h, decodeFamilyF, h']

theorem encodes_ldK : Encodes 0xF0FF 0xF00A (fun w => .ldK (fieldX w)) :=
  encodes_byte (k := 0xF) (b := 0x0A) (by decide) rfl fun w h h' => by simp only [decodeWord, h, decodeFamilyF, h']

theorem encodes_ldDT : Encodes 0xF0FF 0xF015 (fun w => .ldDT (fieldX w)) :=
  encodes_byte (k := 0xF) (b := 0x15) (by decide) rfl fun w h h' => by simp only [decodeWord, h, decodeFamilyF, h']

theorem encodes_ldST : Encodes 0xF0FF 0xF018 (fun w => .ldST (fieldX w)) :=
  encodes_byte (k := 0xF) (b := 0x18) (by decide) rfl fun w h h' => by simp only [decodeWord, h, decodeFamilyF, h']

theorem encodes_addI : Encodes 0xF0FF 0xF01E (fun w => .addI (fieldX w)) :=
  encodes_byte (k := 0xF) (b := 0x1E) (by decide) rfl fun w h h' => by simp only [decodeWord, h, decodeFamilyF, h']

theorem encodes_ldF : Encodes 0xF0FF 0xF029 (fun w => .ldF (fieldX w)) :=
  encodes_byte (k := 0xF) (b := 0x29) (by decide) rfl fun w h h' => by simp only [decodeWord, h, decodeFamilyF, h']

theorem encodes_ldB : Encodes 0xF0FF 0xF033 (fun w => .ldB (fieldX w)) :=
  encodes_byte (k := 0xF) (b := 0x33) (by decide) rfl fun w h h' => by simp only [decodeWord, h, decodeFamilyF, h']

theorem encodes_stRegs : Encodes 0xF0FF 0xF055 (fun w => .stRegs (fieldX w)) :=
  encodes_byte (k := 0xF) (b := 0x55) (by decide) rfl fun w h h' => by simp only [decodeWord, h, decodeFamilyF, h']

theorem encodes_ldRegs : Encodes 0xF0FF 0xF065 (fun w => .ldRegs (fieldX w)) :=
  encodes_byte (k := 0xF) (b := 0x65) (by decide) rfl fun w h h' => by simp only [decodeWord, h, decodeFamilyF, h']

end Sys2Proof.Machine
end

