-- ==== Sys2Proof/Laws/Display.lean ====
section
/-! SUPPORT. What drawing does, cell by cell: the set bits of a sprite, their order, the toggled cells and the collision (R114). -/

namespace Sys2Proof.Machine

/-! ### Cells -/

theorem cellOn_of_lt (fb : Vector Bool 2048) {c : Nat} (h : c < 2048) : cellOn fb c = fb[c] := by simp [cellOn, h]

theorem cellOn_of_not_lt (fb : Vector Bool 2048) {c : Nat} (h : ¬ c < 2048) : cellOn fb c = false := by simp [cellOn, h]

/-- Framebuffers with the same cells are the same. -/
theorem fb_ext {fb fb' : Vector Bool 2048} (h : ∀ c, c < 2048 → cellOn fb c = cellOn fb' c) : fb = fb' := by
  apply Vector.ext
  intro c hc
  rw [← cellOn_of_lt fb hc, ← cellOn_of_lt fb' hc, h c hc]

/-- Toggling a cell flips it and no other. -/
theorem cellOn_toggleCell (fb : Vector Bool 2048) {c : Nat} (hc : c < 2048) (d : Nat) :
    cellOn (toggleCell fb c) d = if d = c then !cellOn fb d else cellOn fb d := by
  by_cases hd : d < 2048
  · rw [cellOn_of_lt _ hd]
    by_cases h : d = c
    · subst h; simp [toggleCell]
    · simp [toggleCell, h, Ne.symm h, cellOn_of_lt fb hd]
  · have : d ≠ c := by omega
    simp [cellOn_of_not_lt _ hd, this]

/-! ### Drawing a list of cells -/

/-- After the cells of a list without repeats are drawn, exactly they are flipped. -/
theorem cellOn_foldl_drawCell (cells : List Nat) (p : Vector Bool 2048 × Bool) (hb : ∀ c ∈ cells, c < 2048)
    (hn : cells.Nodup) (d : Nat) :
    cellOn (cells.foldl drawCell p).1 d = (cellOn p.1 d != decide (d ∈ cells)) := by
  induction cells generalizing p with
  | nil => simp
  | cons c cells ih =>
    have hc : c < 2048 := hb c (by simp)
    rw [List.foldl_cons, ih _ (fun e he => hb e (by simp [he])) (List.nodup_cons.1 hn).2]
    simp only [drawCell, cellOn_toggleCell p.1 hc]
    by_cases h : d = c
    · subst h
      have : d ∉ cells := (List.nodup_cons.1 hn).1
      simp [this]
    · simp [h]

/-- The collision flag says whether some drawn cell was on before. -/
theorem foldl_drawCell_snd (cells : List Nat) (p : Vector Bool 2048 × Bool) (hb : ∀ c ∈ cells, c < 2048)
    (hn : cells.Nodup) : (cells.foldl drawCell p).2 = (p.2 || cells.any fun c => cellOn p.1 c) := by
  induction cells generalizing p with
  | nil => simp
  | cons c cells ih =>
    have hc : c < 2048 := hb c (by simp)
    rw [List.foldl_cons, ih _ (fun e he => hb e (by simp [he])) (List.nodup_cons.1 hn).2]
    have hsame : (cells.any fun e => cellOn (toggleCell p.1 c) e) = cells.any fun e => cellOn p.1 e := by
      rw [Bool.eq_iff_iff]
      simp only [List.any_eq_true]
      refine exists_congr fun e => and_congr_right fun he => ?_
      have : e ≠ c := fun h => (List.nodup_cons.1 hn).1 (h ▸ he)
      rw [cellOn_toggleCell p.1 hc, if_neg this]
    simp only [drawCell, hsame, List.any_cons, Bool.or_assoc]

/-- What drawing does to every cell. -/
theorem cellOn_drawCells (fb : Vector Bool 2048) (cells : List Nat) (hb : ∀ c ∈ cells, c < 2048) (hn : cells.Nodup) (d : Nat) :
    cellOn (drawCells fb cells).1 d = (cellOn fb d != decide (d ∈ cells)) :=
  cellOn_foldl_drawCell cells (fb, false) hb hn d

/-- What drawing reports. -/
theorem drawCells_snd (fb : Vector Bool 2048) (cells : List Nat) (hb : ∀ c ∈ cells, c < 2048) (hn : cells.Nodup) :
    (drawCells fb cells).2 = cells.any fun c => cellOn fb c := by
  rw [drawCells, foldl_drawCell_snd cells (fb, false) hb hn, Bool.false_or]

/-! ### The cells of a sprite -/

theorem mem_rowCells {base d : Nat} {row : Byte} :
    d ∈ rowCells base row ↔ ∃ c, c < 8 ∧ row.getLsbD (7 - c) = true ∧ d = base + c := by
  simp only [rowCells, List.mem_map, List.mem_filter, List.mem_range]
  exact exists_congr fun c => ⟨fun h => ⟨h.1.1, h.1.2, h.2.symm⟩, fun h => ⟨⟨h.1, h.2.1⟩, h.2.2.symm⟩⟩

/-- The cells of a sprite are the flat sums of its set bits (R114). -/
theorem mem_spriteCells {cx y d : Nat} {rows : List Byte} :
    d ∈ spriteCells cx y rows ↔
      ∃ r, ∃ h : r < rows.length, ∃ c, c < 8 ∧ rows[r].getLsbD (7 - c) = true ∧ d = (y + r) * 64 + (cx + c) := by
  induction rows generalizing y with
  | nil => simp [spriteCells]
  | cons row rows ih =>
    rw [spriteCells, List.mem_append, mem_rowCells, ih]
    constructor
    · rintro (⟨c, hc, hb, rfl⟩ | ⟨r, hr, c, hc, hb, rfl⟩)
      · exact ⟨0, by simp, c, hc, by simpa using hb, by omega⟩
      · exact ⟨r + 1, by simpa using hr, c, hc, by simpa using hb, by omega⟩
    · rintro ⟨r, hr, c, hc, hb, rfl⟩
      cases r with
      | zero => exact .inl ⟨c, hc, by simpa using hb, by omega⟩
      | succ r => exact .inr ⟨r, by simpa using hr, c, hc, by simpa using hb, by omega⟩

theorem rowCells_sorted (base : Nat) (row : Byte) : (rowCells base row).Pairwise (· < ·) := by
  unfold rowCells
  rw [List.pairwise_map]
  exact (List.pairwise_lt_range.filter _).imp fun h => Nat.add_lt_add_left h _

/-- The cells of a sprite ascend in drawing order, so no two set bits meet (R114). -/
theorem spriteCells_sorted (cx y : Nat) (rows : List Byte) : (spriteCells cx y rows).Pairwise (· < ·) := by
  induction rows generalizing y with
  | nil => exact List.Pairwise.nil
  | cons row rows ih =>
    rw [spriteCells, List.pairwise_append]
    refine ⟨rowCells_sorted _ _, ih _, fun a ha b hb => ?_⟩
    obtain ⟨c, hc, -, rfl⟩ := mem_rowCells.1 ha
    obtain ⟨r, -, c', -, -, rfl⟩ := mem_spriteCells.1 hb
    omega

theorem spriteCells_nodup (cx y : Nat) (rows : List Byte) : (spriteCells cx y rows).Nodup :=
  (spriteCells_sorted cx y rows).imp Nat.ne_of_lt

/-- The first cell of an ascending list that passes a test is the lowest that does. -/
theorem find_least {cells : List Nat} {p : Nat → Bool} {d : Nat} (hs : cells.Pairwise (· < ·)) (h : cells.find? p = some d) :
    d ∈ cells ∧ p d = true ∧ ∀ e ∈ cells, p e = true → d ≤ e := by
  induction cells with
  | nil => simp at h
  | cons c cells ih =>
    rw [List.pairwise_cons] at hs
    rw [List.find?_cons] at h
    split at h
    · rename_i hc
      obtain rfl : c = d := by simpa using h
      refine ⟨by simp, hc, fun e he _ => ?_⟩
      rcases List.mem_cons.1 he with rfl | he
      · exact Nat.le_refl _
      · exact Nat.le_of_lt (hs.1 e he)
    · rename_i hc
      obtain ⟨h1, h2, h3⟩ := ih hs.2 h
      refine ⟨by simp [h1], h2, fun e he hp => ?_⟩
      rcases List.mem_cons.1 he with rfl | he
      · exact absurd hp (by simp [hc])
      · exact h3 e he hp

end Sys2Proof.Machine
end

