-- ==== Sys2Proof/Laws/Memory.lean ====
section
/-! SUPPORT. The laws of the memory list: read after write, the canonical form, and that equal readings are equal lists. -/

namespace Sys2Proof.Machine

variable {bg : Nat → Byte}

/-- Below the first listed address, memory reads as `bg`. -/
theorem Memory.read_below (m : Memory) (a lo : Nat) (hlt : a < lo) (h : Memory.wfFrom bg lo m = true) :
    Memory.read bg m a = bg a := by
  induction m generalizing lo with
  | nil => rfl
  | cons p m ih =>
    obtain ⟨k, u⟩ := p
    simp only [Memory.wfFrom, Bool.and_eq_true, decide_eq_true_eq] at h
    have : a ≠ k := by omega
    simp only [Memory.read, this, if_false]
    exact ih (k + 1) (by omega) h.2

/-- A write is read back. -/
theorem Memory.read_write_same (m : Memory) (a : Nat) (v : Byte) {lo : Nat} (h : Memory.wfFrom bg lo m = true) :
    Memory.read bg (Memory.write bg m a v) a = v := by
  induction m generalizing lo with
  | nil => by_cases hv : v = bg a <;> simp [Memory.write, Memory.read, hv]
  | cons p m ih =>
    obtain ⟨k, u⟩ := p
    simp only [Memory.wfFrom, Bool.and_eq_true, decide_eq_true_eq] at h
    simp only [Memory.write]
    by_cases h1 : a < k
    · have hne : a ≠ k := by omega
      by_cases hv : v = bg a
      · simp [h1, hv, Memory.read, hne, Memory.read_below m a (k + 1) (by omega) h.2]
      · simp [h1, hv, Memory.read]
    · by_cases h2 : a = k
      · subst h2
        by_cases hv : v = bg a
        · simp [hv, Memory.read_below m a (a + 1) (by omega) h.2]
        · simp [hv, Memory.read]
      · simp only [h1, h2, if_false, Memory.read]
        exact ih h.2

/-- A write leaves every other address alone, in any list. -/
theorem Memory.read_write_other (m : Memory) (a b : Nat) (v : Byte) (hne : b ≠ a) :
    Memory.read bg (Memory.write bg m a v) b = Memory.read bg m b := by
  induction m with
  | nil => by_cases hv : v = bg a <;> simp [Memory.write, Memory.read, hv, hne]
  | cons p m ih =>
    obtain ⟨k, u⟩ := p
    simp only [Memory.write]
    split
    · split <;> simp [Memory.read, hne]
    · split
      · rename_i _ h
        subst h
        split <;> simp [Memory.read, hne]
      · simp only [Memory.read, ih]

/-- A lower bound may be lowered. -/
theorem Memory.wfFrom_mono {m : Memory} {lo lo' : Nat} (hle : lo' ≤ lo) (h : Memory.wfFrom bg lo m = true) :
    Memory.wfFrom bg lo' m = true := by
  cases m with
  | nil => rfl
  | cons p m =>
    obtain ⟨k, u⟩ := p
    simp only [Memory.wfFrom, Bool.and_eq_true, decide_eq_true_eq] at h ⊢
    exact ⟨⟨⟨by omega, h.1.1.2⟩, h.1.2⟩, h.2⟩

/-- A write at or above the bound keeps the canonical form. -/
theorem Memory.wfFrom_write {m : Memory} {lo a : Nat} {v : Byte} (hlo : lo ≤ a) (ha : a < memSize)
    (h : Memory.wfFrom bg lo m = true) : Memory.wfFrom bg lo (Memory.write bg m a v) = true := by
  induction m generalizing lo with
  | nil =>
    by_cases hv : v = bg a
    · simp [Memory.write, hv, Memory.wfFrom]
    · simp [Memory.write, hv, Memory.wfFrom, hlo, ha]
  | cons p m ih =>
    obtain ⟨k, u⟩ := p
    simp only [Memory.wfFrom, Bool.and_eq_true, decide_eq_true_eq] at h
    simp only [Memory.write]
    by_cases h1 : a < k
    · by_cases hv : v = bg a
      · simp only [h1, hv, if_true, Memory.wfFrom, Bool.and_eq_true, decide_eq_true_eq]
        exact ⟨⟨⟨by omega, h.1.1.2⟩, h.1.2⟩, h.2⟩
      · simp only [h1, hv, if_true, if_false, Memory.wfFrom, Bool.and_eq_true, decide_eq_true_eq]
        exact ⟨⟨⟨hlo, ha⟩, hv⟩, ⟨⟨by omega, h.1.1.2⟩, h.1.2⟩, h.2⟩
    · by_cases h2 : a = k
      · subst h2
        by_cases hv : v = bg a
        · simp only [Nat.lt_irrefl, hv, if_true, if_false]
          exact Memory.wfFrom_mono (by omega) h.2
        · simp only [Nat.lt_irrefl, hv, if_true, if_false, Memory.wfFrom, Bool.and_eq_true, decide_eq_true_eq]
          exact ⟨⟨⟨hlo, ha⟩, hv⟩, h.2⟩
      · simp only [h1, h2, if_false, Memory.wfFrom, Bool.and_eq_true, decide_eq_true_eq]
        exact ⟨⟨⟨h.1.1.1, h.1.1.2⟩, h.1.2⟩, ih (by omega) h.2⟩

/-- A write inside the address space keeps the canonical form. -/
theorem Memory.wf_write {m : Memory} {a : Nat} {v : Byte} (ha : a < memSize) (h : Memory.wf bg m = true) :
    Memory.wf bg (Memory.write bg m a v) = true :=
  Memory.wfFrom_write (Nat.zero_le a) ha h

/-- Two memories in canonical form that read the same everywhere are the same list. -/
theorem Memory.ext_of_read {m m' : Memory} {lo lo' : Nat} (h : Memory.wfFrom bg lo m = true)
    (h' : Memory.wfFrom bg lo' m' = true) (hr : ∀ a, Memory.read bg m a = Memory.read bg m' a) : m = m' := by
  induction m generalizing lo lo' m' with
  | nil =>
    cases m' with
    | nil => rfl
    | cons p m' =>
      obtain ⟨k, u⟩ := p
      simp only [Memory.wfFrom, Bool.and_eq_true, decide_eq_true_eq] at h'
      have := hr k
      simp only [Memory.read, if_true] at this
      exact absurd this.symm h'.1.2
  | cons p m ih =>
    obtain ⟨k, u⟩ := p
    simp only [Memory.wfFrom, Bool.and_eq_true, decide_eq_true_eq] at h
    cases m' with
    | nil =>
      have := hr k
      simp only [Memory.read, if_true] at this
      exact absurd this h.1.2
    | cons q m' =>
      obtain ⟨k', u'⟩ := q
      simp only [Memory.wfFrom, Bool.and_eq_true, decide_eq_true_eq] at h'
      have hk : k = k' := by
        rcases Nat.lt_trichotomy k k' with hlt | heq | hgt
        · have := hr k
          simp only [Memory.read, if_true, Nat.ne_of_lt hlt, if_false,
            Memory.read_below m' k (k' + 1) (by omega) h'.2] at this
          exact absurd this h.1.2
        · exact heq
        · have := hr k'
          simp only [Memory.read, if_true, Nat.ne_of_lt hgt, if_false,
            Memory.read_below m k' (k + 1) (by omega) h.2] at this
          exact absurd this.symm h'.1.2
      subst hk
      have hu : u = u' := by simpa [Memory.read] using hr k
      subst hu
      refine congrArg _ (ih h.2 h'.2 fun a => ?_)
      by_cases ha : a = k
      · subst ha
        rw [Memory.read_below m a (a + 1) (by omega) h.2, Memory.read_below m' a (a + 1) (by omega) h'.2]
      · simpa [Memory.read, ha] using hr a

end Sys2Proof.Machine
end

