-- ==== Sys2Proof/Laws/State.lean ====
section
/-! SUPPORT. One lemma for each field under each update of the state, so that no proof unfolds a record update. -/

namespace Sys2Proof.Machine

variable (s : State)

/-! ### writeV -/

@[simp] theorem State.writeV_V (x : Reg) (b : Byte) : (s.writeV x b).V = s.V.set x.val b := rfl
@[simp] theorem State.writeV_I (x : Reg) (b : Byte) : (s.writeV x b).I = s.I := rfl
@[simp] theorem State.writeV_pc (x : Reg) (b : Byte) : (s.writeV x b).pc = s.pc := rfl
@[simp] theorem State.writeV_S (x : Reg) (b : Byte) : (s.writeV x b).S = s.S := rfl
@[simp] theorem State.writeV_SP (x : Reg) (b : Byte) : (s.writeV x b).SP = s.SP := rfl
@[simp] theorem State.writeV_DT (x : Reg) (b : Byte) : (s.writeV x b).DT = s.DT := rfl
@[simp] theorem State.writeV_ST (x : Reg) (b : Byte) : (s.writeV x b).ST = s.ST := rfl
@[simp] theorem State.writeV_M (x : Reg) (b : Byte) : (s.writeV x b).M = s.M := rfl
@[simp] theorem State.writeV_FB (x : Reg) (b : Byte) : (s.writeV x b).FB = s.FB := rfl
@[simp] theorem State.writeV_K (x : Reg) (b : Byte) : (s.writeV x b).K = s.K := rfl
@[simp] theorem State.writeV_err (x : Reg) (b : Byte) : (s.writeV x b).err = s.err := rfl
@[simp] theorem State.writeV_fault (x : Reg) (b : Byte) : (s.writeV x b).fault = s.fault := rfl
@[simp] theorem State.writeV_phase (x : Reg) (b : Byte) : (s.writeV x b).phase = s.phase := rfl
@[simp] theorem State.writeV_cfg (x : Reg) (b : Byte) : (s.writeV x b).cfg = s.cfg := rfl
@[simp] theorem State.writeV_draws (x : Reg) (b : Byte) : (s.writeV x b).draws = s.draws := rfl
@[simp] theorem State.writeV_hostOps (x : Reg) (b : Byte) : (s.writeV x b).hostOps = s.hostOps := rfl

/-! ### writeVs -/

@[simp] theorem State.writeVs_I (bs : List Byte) : (s.writeVs bs).I = s.I := rfl
@[simp] theorem State.writeVs_pc (bs : List Byte) : (s.writeVs bs).pc = s.pc := rfl
@[simp] theorem State.writeVs_S (bs : List Byte) : (s.writeVs bs).S = s.S := rfl
@[simp] theorem State.writeVs_SP (bs : List Byte) : (s.writeVs bs).SP = s.SP := rfl
@[simp] theorem State.writeVs_DT (bs : List Byte) : (s.writeVs bs).DT = s.DT := rfl
@[simp] theorem State.writeVs_ST (bs : List Byte) : (s.writeVs bs).ST = s.ST := rfl
@[simp] theorem State.writeVs_M (bs : List Byte) : (s.writeVs bs).M = s.M := rfl
@[simp] theorem State.writeVs_FB (bs : List Byte) : (s.writeVs bs).FB = s.FB := rfl
@[simp] theorem State.writeVs_K (bs : List Byte) : (s.writeVs bs).K = s.K := rfl
@[simp] theorem State.writeVs_err (bs : List Byte) : (s.writeVs bs).err = s.err := rfl
@[simp] theorem State.writeVs_fault (bs : List Byte) : (s.writeVs bs).fault = s.fault := rfl
@[simp] theorem State.writeVs_phase (bs : List Byte) : (s.writeVs bs).phase = s.phase := rfl
@[simp] theorem State.writeVs_cfg (bs : List Byte) : (s.writeVs bs).cfg = s.cfg := rfl
@[simp] theorem State.writeVs_draws (bs : List Byte) : (s.writeVs bs).draws = s.draws := rfl
@[simp] theorem State.writeVs_hostOps (bs : List Byte) : (s.writeVs bs).hostOps = s.hostOps := rfl

/-! ### writeFlag -/

@[simp] theorem State.writeFlag_V (c : Bool) : (s.writeFlag c).V = s.V.set 15 (flagByte c) := rfl
@[simp] theorem State.writeFlag_I (c : Bool) : (s.writeFlag c).I = s.I := rfl
@[simp] theorem State.writeFlag_pc (c : Bool) : (s.writeFlag c).pc = s.pc := rfl
@[simp] theorem State.writeFlag_S (c : Bool) : (s.writeFlag c).S = s.S := rfl
@[simp] theorem State.writeFlag_SP (c : Bool) : (s.writeFlag c).SP = s.SP := rfl
@[simp] theorem State.writeFlag_DT (c : Bool) : (s.writeFlag c).DT = s.DT := rfl
@[simp] theorem State.writeFlag_ST (c : Bool) : (s.writeFlag c).ST = s.ST := rfl
@[simp] theorem State.writeFlag_M (c : Bool) : (s.writeFlag c).M = s.M := rfl
@[simp] theorem State.writeFlag_FB (c : Bool) : (s.writeFlag c).FB = s.FB := rfl
@[simp] theorem State.writeFlag_K (c : Bool) : (s.writeFlag c).K = s.K := rfl
@[simp] theorem State.writeFlag_err (c : Bool) : (s.writeFlag c).err = s.err := rfl
@[simp] theorem State.writeFlag_fault (c : Bool) : (s.writeFlag c).fault = s.fault := rfl
@[simp] theorem State.writeFlag_phase (c : Bool) : (s.writeFlag c).phase = s.phase := rfl
@[simp] theorem State.writeFlag_cfg (c : Bool) : (s.writeFlag c).cfg = s.cfg := rfl
@[simp] theorem State.writeFlag_draws (c : Bool) : (s.writeFlag c).draws = s.draws := rfl
@[simp] theorem State.writeFlag_hostOps (c : Bool) : (s.writeFlag c).hostOps = s.hostOps := rfl

/-! ### writeI -/

@[simp] theorem State.writeI_V (w : Word) : (s.writeI w).V = s.V := rfl
@[simp] theorem State.writeI_I (w : Word) : (s.writeI w).I = w := rfl
@[simp] theorem State.writeI_pc (w : Word) : (s.writeI w).pc = s.pc := rfl
@[simp] theorem State.writeI_S (w : Word) : (s.writeI w).S = s.S := rfl
@[simp] theorem State.writeI_SP (w : Word) : (s.writeI w).SP = s.SP := rfl
@[simp] theorem State.writeI_DT (w : Word) : (s.writeI w).DT = s.DT := rfl
@[simp] theorem State.writeI_ST (w : Word) : (s.writeI w).ST = s.ST := rfl
@[simp] theorem State.writeI_M (w : Word) : (s.writeI w).M = s.M := rfl
@[simp] theorem State.writeI_FB (w : Word) : (s.writeI w).FB = s.FB := rfl
@[simp] theorem State.writeI_K (w : Word) : (s.writeI w).K = s.K := rfl
@[simp] theorem State.writeI_err (w : Word) : (s.writeI w).err = s.err := rfl
@[simp] theorem State.writeI_fault (w : Word) : (s.writeI w).fault = s.fault := rfl
@[simp] theorem State.writeI_phase (w : Word) : (s.writeI w).phase = s.phase := rfl
@[simp] theorem State.writeI_cfg (w : Word) : (s.writeI w).cfg = s.cfg := rfl
@[simp] theorem State.writeI_draws (w : Word) : (s.writeI w).draws = s.draws := rfl
@[simp] theorem State.writeI_hostOps (w : Word) : (s.writeI w).hostOps = s.hostOps := rfl

/-! ### writeDT -/

@[simp] theorem State.writeDT_V (b : Byte) : (s.writeDT b).V = s.V := rfl
@[simp] theorem State.writeDT_I (b : Byte) : (s.writeDT b).I = s.I := rfl
@[simp] theorem State.writeDT_pc (b : Byte) : (s.writeDT b).pc = s.pc := rfl
@[simp] theorem State.writeDT_S (b : Byte) : (s.writeDT b).S = s.S := rfl
@[simp] theorem State.writeDT_SP (b : Byte) : (s.writeDT b).SP = s.SP := rfl
@[simp] theorem State.writeDT_DT (b : Byte) : (s.writeDT b).DT = b := rfl
@[simp] theorem State.writeDT_ST (b : Byte) : (s.writeDT b).ST = s.ST := rfl
@[simp] theorem State.writeDT_M (b : Byte) : (s.writeDT b).M = s.M := rfl
@[simp] theorem State.writeDT_FB (b : Byte) : (s.writeDT b).FB = s.FB := rfl
@[simp] theorem State.writeDT_K (b : Byte) : (s.writeDT b).K = s.K := rfl
@[simp] theorem State.writeDT_err (b : Byte) : (s.writeDT b).err = s.err := rfl
@[simp] theorem State.writeDT_fault (b : Byte) : (s.writeDT b).fault = s.fault := rfl
@[simp] theorem State.writeDT_phase (b : Byte) : (s.writeDT b).phase = s.phase := rfl
@[simp] theorem State.writeDT_cfg (b : Byte) : (s.writeDT b).cfg = s.cfg := rfl
@[simp] theorem State.writeDT_draws (b : Byte) : (s.writeDT b).draws = s.draws := rfl
@[simp] theorem State.writeDT_hostOps (b : Byte) : (s.writeDT b).hostOps = s.hostOps := rfl

/-! ### writeST -/

@[simp] theorem State.writeST_V (b : Byte) : (s.writeST b).V = s.V := rfl
@[simp] theorem State.writeST_I (b : Byte) : (s.writeST b).I = s.I := rfl
@[simp] theorem State.writeST_pc (b : Byte) : (s.writeST b).pc = s.pc := rfl
@[simp] theorem State.writeST_S (b : Byte) : (s.writeST b).S = s.S := rfl
@[simp] theorem State.writeST_SP (b : Byte) : (s.writeST b).SP = s.SP := rfl
@[simp] theorem State.writeST_DT (b : Byte) : (s.writeST b).DT = s.DT := rfl
@[simp] theorem State.writeST_ST (b : Byte) : (s.writeST b).ST = b := rfl
@[simp] theorem State.writeST_M (b : Byte) : (s.writeST b).M = s.M := rfl
@[simp] theorem State.writeST_FB (b : Byte) : (s.writeST b).FB = s.FB := rfl
@[simp] theorem State.writeST_K (b : Byte) : (s.writeST b).K = s.K := rfl
@[simp] theorem State.writeST_err (b : Byte) : (s.writeST b).err = s.err := rfl
@[simp] theorem State.writeST_fault (b : Byte) : (s.writeST b).fault = s.fault := rfl
@[simp] theorem State.writeST_phase (b : Byte) : (s.writeST b).phase = s.phase := rfl
@[simp] theorem State.writeST_cfg (b : Byte) : (s.writeST b).cfg = s.cfg := rfl
@[simp] theorem State.writeST_draws (b : Byte) : (s.writeST b).draws = s.draws := rfl
@[simp] theorem State.writeST_hostOps (b : Byte) : (s.writeST b).hostOps = s.hostOps := rfl

/-! ### timerStep -/

@[simp] theorem State.timerStep_V : s.timerStep.V = s.V := rfl
@[simp] theorem State.timerStep_I : s.timerStep.I = s.I := rfl
@[simp] theorem State.timerStep_pc : s.timerStep.pc = s.pc := rfl
@[simp] theorem State.timerStep_S : s.timerStep.S = s.S := rfl
@[simp] theorem State.timerStep_SP : s.timerStep.SP = s.SP := rfl
@[simp] theorem State.timerStep_DT : s.timerStep.DT = countDown s.DT := rfl
@[simp] theorem State.timerStep_ST : s.timerStep.ST = countDown s.ST := rfl
@[simp] theorem State.timerStep_M : s.timerStep.M = s.M := rfl
@[simp] theorem State.timerStep_FB : s.timerStep.FB = s.FB := rfl
@[simp] theorem State.timerStep_K : s.timerStep.K = s.K := rfl
@[simp] theorem State.timerStep_err : s.timerStep.err = s.err := rfl
@[simp] theorem State.timerStep_fault : s.timerStep.fault = s.fault := rfl
@[simp] theorem State.timerStep_phase : s.timerStep.phase = s.phase := rfl
@[simp] theorem State.timerStep_cfg : s.timerStep.cfg = s.cfg := rfl
@[simp] theorem State.timerStep_draws : s.timerStep.draws = s.draws := rfl
@[simp] theorem State.timerStep_hostOps : s.timerStep.hostOps = s.hostOps := rfl

/-! ### jump -/

@[simp] theorem State.jump_V (w : Word) : (s.jump w).V = s.V := rfl
@[simp] theorem State.jump_I (w : Word) : (s.jump w).I = s.I := rfl
@[simp] theorem State.jump_pc (w : Word) : (s.jump w).pc = w := rfl
@[simp] theorem State.jump_S (w : Word) : (s.jump w).S = s.S := rfl
@[simp] theorem State.jump_SP (w : Word) : (s.jump w).SP = s.SP := rfl
@[simp] theorem State.jump_DT (w : Word) : (s.jump w).DT = s.DT := rfl
@[simp] theorem State.jump_ST (w : Word) : (s.jump w).ST = s.ST := rfl
@[simp] theorem State.jump_M (w : Word) : (s.jump w).M = s.M := rfl
@[simp] theorem State.jump_FB (w : Word) : (s.jump w).FB = s.FB := rfl
@[simp] theorem State.jump_K (w : Word) : (s.jump w).K = s.K := rfl
@[simp] theorem State.jump_err (w : Word) : (s.jump w).err = s.err := rfl
@[simp] theorem State.jump_fault (w : Word) : (s.jump w).fault = s.fault := rfl
@[simp] theorem State.jump_phase (w : Word) : (s.jump w).phase = s.phase := rfl
@[simp] theorem State.jump_cfg (w : Word) : (s.jump w).cfg = s.cfg := rfl
@[simp] theorem State.jump_draws (w : Word) : (s.jump w).draws = s.draws := rfl
@[simp] theorem State.jump_hostOps (w : Word) : (s.jump w).hostOps = s.hostOps := rfl

/-! ### advance -/

@[simp] theorem State.advance_V : s.advance.V = s.V := rfl
@[simp] theorem State.advance_I : s.advance.I = s.I := rfl
@[simp] theorem State.advance_pc : s.advance.pc = s.pc + 2 := rfl
@[simp] theorem State.advance_S : s.advance.S = s.S := rfl
@[simp] theorem State.advance_SP : s.advance.SP = s.SP := rfl
@[simp] theorem State.advance_DT : s.advance.DT = s.DT := rfl
@[simp] theorem State.advance_ST : s.advance.ST = s.ST := rfl
@[simp] theorem State.advance_M : s.advance.M = s.M := rfl
@[simp] theorem State.advance_FB : s.advance.FB = s.FB := rfl
@[simp] theorem State.advance_K : s.advance.K = s.K := rfl
@[simp] theorem State.advance_err : s.advance.err = s.err := rfl
@[simp] theorem State.advance_fault : s.advance.fault = s.fault := rfl
@[simp] theorem State.advance_phase : s.advance.phase = s.phase := rfl
@[simp] theorem State.advance_cfg : s.advance.cfg = s.cfg := rfl
@[simp] theorem State.advance_draws : s.advance.draws = s.draws := rfl
@[simp] theorem State.advance_hostOps : s.advance.hostOps = s.hostOps := rfl

/-! ### rewind -/

@[simp] theorem State.rewind_V : s.rewind.V = s.V := rfl
@[simp] theorem State.rewind_I : s.rewind.I = s.I := rfl
@[simp] theorem State.rewind_pc : s.rewind.pc = s.pc - 2 := rfl
@[simp] theorem State.rewind_S : s.rewind.S = s.S := rfl
@[simp] theorem State.rewind_SP : s.rewind.SP = s.SP := rfl
@[simp] theorem State.rewind_DT : s.rewind.DT = s.DT := rfl
@[simp] theorem State.rewind_ST : s.rewind.ST = s.ST := rfl
@[simp] theorem State.rewind_M : s.rewind.M = s.M := rfl
@[simp] theorem State.rewind_FB : s.rewind.FB = s.FB := rfl
@[simp] theorem State.rewind_K : s.rewind.K = s.K := rfl
@[simp] theorem State.rewind_err : s.rewind.err = s.err := rfl
@[simp] theorem State.rewind_fault : s.rewind.fault = s.fault := rfl
@[simp] theorem State.rewind_phase : s.rewind.phase = s.phase := rfl
@[simp] theorem State.rewind_cfg : s.rewind.cfg = s.cfg := rfl
@[simp] theorem State.rewind_draws : s.rewind.draws = s.draws := rfl
@[simp] theorem State.rewind_hostOps : s.rewind.hostOps = s.hostOps := rfl

/-! ### push -/

@[simp] theorem State.push_V (w : Word) (h : s.SP.val < 16) : (s.push w h).V = s.V := rfl
@[simp] theorem State.push_I (w : Word) (h : s.SP.val < 16) : (s.push w h).I = s.I := rfl
@[simp] theorem State.push_pc (w : Word) (h : s.SP.val < 16) : (s.push w h).pc = s.pc := rfl
@[simp] theorem State.push_S (w : Word) (h : s.SP.val < 16) : (s.push w h).S = s.S.set s.SP.val w := rfl
@[simp] theorem State.push_SP (w : Word) (h : s.SP.val < 16) : (s.push w h).SP = ⟨s.SP.val + 1, Nat.succ_lt_succ h⟩ := rfl
@[simp] theorem State.push_DT (w : Word) (h : s.SP.val < 16) : (s.push w h).DT = s.DT := rfl
@[simp] theorem State.push_ST (w : Word) (h : s.SP.val < 16) : (s.push w h).ST = s.ST := rfl
@[simp] theorem State.push_M (w : Word) (h : s.SP.val < 16) : (s.push w h).M = s.M := rfl
@[simp] theorem State.push_FB (w : Word) (h : s.SP.val < 16) : (s.push w h).FB = s.FB := rfl
@[simp] theorem State.push_K (w : Word) (h : s.SP.val < 16) : (s.push w h).K = s.K := rfl
@[simp] theorem State.push_err (w : Word) (h : s.SP.val < 16) : (s.push w h).err = s.err := rfl
@[simp] theorem State.push_fault (w : Word) (h : s.SP.val < 16) : (s.push w h).fault = s.fault := rfl
@[simp] theorem State.push_phase (w : Word) (h : s.SP.val < 16) : (s.push w h).phase = s.phase := rfl
@[simp] theorem State.push_cfg (w : Word) (h : s.SP.val < 16) : (s.push w h).cfg = s.cfg := rfl
@[simp] theorem State.push_draws (w : Word) (h : s.SP.val < 16) : (s.push w h).draws = s.draws := rfl
@[simp] theorem State.push_hostOps (w : Word) (h : s.SP.val < 16) : (s.push w h).hostOps = s.hostOps := rfl

/-! ### pop -/

@[simp] theorem State.pop_V (h : s.SP.val ≠ 0) : (s.pop h).V = s.V := rfl
@[simp] theorem State.pop_I (h : s.SP.val ≠ 0) : (s.pop h).I = s.I := rfl
@[simp] theorem State.pop_S (h : s.SP.val ≠ 0) : (s.pop h).S = s.S := rfl
@[simp] theorem State.pop_DT (h : s.SP.val ≠ 0) : (s.pop h).DT = s.DT := rfl
@[simp] theorem State.pop_ST (h : s.SP.val ≠ 0) : (s.pop h).ST = s.ST := rfl
@[simp] theorem State.pop_M (h : s.SP.val ≠ 0) : (s.pop h).M = s.M := rfl
@[simp] theorem State.pop_FB (h : s.SP.val ≠ 0) : (s.pop h).FB = s.FB := rfl
@[simp] theorem State.pop_K (h : s.SP.val ≠ 0) : (s.pop h).K = s.K := rfl
@[simp] theorem State.pop_err (h : s.SP.val ≠ 0) : (s.pop h).err = s.err := rfl
@[simp] theorem State.pop_fault (h : s.SP.val ≠ 0) : (s.pop h).fault = s.fault := rfl
@[simp] theorem State.pop_phase (h : s.SP.val ≠ 0) : (s.pop h).phase = s.phase := rfl
@[simp] theorem State.pop_cfg (h : s.SP.val ≠ 0) : (s.pop h).cfg = s.cfg := rfl
@[simp] theorem State.pop_draws (h : s.SP.val ≠ 0) : (s.pop h).draws = s.draws := rfl
@[simp] theorem State.pop_hostOps (h : s.SP.val ≠ 0) : (s.pop h).hostOps = s.hostOps := rfl

/-! ### drawByte -/

@[simp] theorem State.drawByte_V : s.drawByte.2.V = s.V := rfl
@[simp] theorem State.drawByte_I : s.drawByte.2.I = s.I := rfl
@[simp] theorem State.drawByte_pc : s.drawByte.2.pc = s.pc := rfl
@[simp] theorem State.drawByte_S : s.drawByte.2.S = s.S := rfl
@[simp] theorem State.drawByte_SP : s.drawByte.2.SP = s.SP := rfl
@[simp] theorem State.drawByte_DT : s.drawByte.2.DT = s.DT := rfl
@[simp] theorem State.drawByte_ST : s.drawByte.2.ST = s.ST := rfl
@[simp] theorem State.drawByte_M : s.drawByte.2.M = s.M := rfl
@[simp] theorem State.drawByte_FB : s.drawByte.2.FB = s.FB := rfl
@[simp] theorem State.drawByte_K : s.drawByte.2.K = s.K := rfl
@[simp] theorem State.drawByte_err : s.drawByte.2.err = s.err := rfl
@[simp] theorem State.drawByte_fault : s.drawByte.2.fault = s.fault := rfl
@[simp] theorem State.drawByte_phase : s.drawByte.2.phase = s.phase := rfl
@[simp] theorem State.drawByte_cfg : s.drawByte.2.cfg = s.cfg := rfl
@[simp] theorem State.drawByte_draws : s.drawByte.2.draws = s.draws + 1 := rfl
@[simp] theorem State.drawByte_hostOps : s.drawByte.2.hostOps = s.hostOps := rfl

/-! ### raiseAt -/

@[simp] theorem State.raiseAt_V (p : Word) (e : ErrorState) (v : Option Nat) : (s.raiseAt p e v).V = s.V := rfl
@[simp] theorem State.raiseAt_I (p : Word) (e : ErrorState) (v : Option Nat) : (s.raiseAt p e v).I = s.I := rfl
@[simp] theorem State.raiseAt_pc (p : Word) (e : ErrorState) (v : Option Nat) : (s.raiseAt p e v).pc = p := rfl
@[simp] theorem State.raiseAt_S (p : Word) (e : ErrorState) (v : Option Nat) : (s.raiseAt p e v).S = s.S := rfl
@[simp] theorem State.raiseAt_SP (p : Word) (e : ErrorState) (v : Option Nat) : (s.raiseAt p e v).SP = s.SP := rfl
@[simp] theorem State.raiseAt_DT (p : Word) (e : ErrorState) (v : Option Nat) : (s.raiseAt p e v).DT = s.DT := rfl
@[simp] theorem State.raiseAt_ST (p : Word) (e : ErrorState) (v : Option Nat) : (s.raiseAt p e v).ST = s.ST := rfl
@[simp] theorem State.raiseAt_M (p : Word) (e : ErrorState) (v : Option Nat) : (s.raiseAt p e v).M = s.M := rfl
@[simp] theorem State.raiseAt_FB (p : Word) (e : ErrorState) (v : Option Nat) : (s.raiseAt p e v).FB = s.FB := rfl
@[simp] theorem State.raiseAt_K (p : Word) (e : ErrorState) (v : Option Nat) : (s.raiseAt p e v).K = s.K := rfl
@[simp] theorem State.raiseAt_err (p : Word) (e : ErrorState) (v : Option Nat) : (s.raiseAt p e v).err = e := rfl
@[simp] theorem State.raiseAt_fault (p : Word) (e : ErrorState) (v : Option Nat) : (s.raiseAt p e v).fault = some ⟨some p, s.wordAt p, v⟩ := rfl
@[simp] theorem State.raiseAt_phase (p : Word) (e : ErrorState) (v : Option Nat) : (s.raiseAt p e v).phase = s.phase := rfl
@[simp] theorem State.raiseAt_cfg (p : Word) (e : ErrorState) (v : Option Nat) : (s.raiseAt p e v).cfg = s.cfg := rfl
@[simp] theorem State.raiseAt_draws (p : Word) (e : ErrorState) (v : Option Nat) : (s.raiseAt p e v).draws = s.draws := rfl
@[simp] theorem State.raiseAt_hostOps (p : Word) (e : ErrorState) (v : Option Nat) : (s.raiseAt p e v).hostOps = s.hostOps := rfl

@[simp] theorem State.pop_SP_val (h : s.SP.val ≠ 0) : (s.pop h).SP.val = s.SP.val - 1 := rfl

/-! ### skipIf -/

@[simp] theorem State.skipIf_V (c : Bool) : (s.skipIf c).V = s.V := by unfold State.skipIf; split <;> rfl
@[simp] theorem State.skipIf_I (c : Bool) : (s.skipIf c).I = s.I := by unfold State.skipIf; split <;> rfl
@[simp] theorem State.skipIf_S (c : Bool) : (s.skipIf c).S = s.S := by unfold State.skipIf; split <;> rfl
@[simp] theorem State.skipIf_SP (c : Bool) : (s.skipIf c).SP = s.SP := by unfold State.skipIf; split <;> rfl
@[simp] theorem State.skipIf_DT (c : Bool) : (s.skipIf c).DT = s.DT := by unfold State.skipIf; split <;> rfl
@[simp] theorem State.skipIf_ST (c : Bool) : (s.skipIf c).ST = s.ST := by unfold State.skipIf; split <;> rfl
@[simp] theorem State.skipIf_M (c : Bool) : (s.skipIf c).M = s.M := by unfold State.skipIf; split <;> rfl
@[simp] theorem State.skipIf_FB (c : Bool) : (s.skipIf c).FB = s.FB := by unfold State.skipIf; split <;> rfl
@[simp] theorem State.skipIf_K (c : Bool) : (s.skipIf c).K = s.K := by unfold State.skipIf; split <;> rfl
@[simp] theorem State.skipIf_err (c : Bool) : (s.skipIf c).err = s.err := by unfold State.skipIf; split <;> rfl
@[simp] theorem State.skipIf_fault (c : Bool) : (s.skipIf c).fault = s.fault := by unfold State.skipIf; split <;> rfl
@[simp] theorem State.skipIf_phase (c : Bool) : (s.skipIf c).phase = s.phase := by unfold State.skipIf; split <;> rfl
@[simp] theorem State.skipIf_cfg (c : Bool) : (s.skipIf c).cfg = s.cfg := by unfold State.skipIf; split <;> rfl
@[simp] theorem State.skipIf_draws (c : Bool) : (s.skipIf c).draws = s.draws := by unfold State.skipIf; split <;> rfl
@[simp] theorem State.skipIf_hostOps (c : Bool) : (s.skipIf c).hostOps = s.hostOps := by unfold State.skipIf; split <;> rfl

/-! ### writeByte -/

@[simp] theorem State.writeByte_V (a : Nat) (v : Byte) : (s.writeByte a v).V = s.V := by unfold State.writeByte; split <;> rfl
@[simp] theorem State.writeByte_I (a : Nat) (v : Byte) : (s.writeByte a v).I = s.I := by unfold State.writeByte; split <;> rfl
@[simp] theorem State.writeByte_pc (a : Nat) (v : Byte) : (s.writeByte a v).pc = s.pc := by unfold State.writeByte; split <;> rfl
@[simp] theorem State.writeByte_S (a : Nat) (v : Byte) : (s.writeByte a v).S = s.S := by unfold State.writeByte; split <;> rfl
@[simp] theorem State.writeByte_SP (a : Nat) (v : Byte) : (s.writeByte a v).SP = s.SP := by unfold State.writeByte; split <;> rfl
@[simp] theorem State.writeByte_DT (a : Nat) (v : Byte) : (s.writeByte a v).DT = s.DT := by unfold State.writeByte; split <;> rfl
@[simp] theorem State.writeByte_ST (a : Nat) (v : Byte) : (s.writeByte a v).ST = s.ST := by unfold State.writeByte; split <;> rfl
@[simp] theorem State.writeByte_FB (a : Nat) (v : Byte) : (s.writeByte a v).FB = s.FB := by unfold State.writeByte; split <;> rfl
@[simp] theorem State.writeByte_K (a : Nat) (v : Byte) : (s.writeByte a v).K = s.K := by unfold State.writeByte; split <;> rfl
@[simp] theorem State.writeByte_err (a : Nat) (v : Byte) : (s.writeByte a v).err = s.err := by unfold State.writeByte; split <;> rfl
@[simp] theorem State.writeByte_fault (a : Nat) (v : Byte) : (s.writeByte a v).fault = s.fault := by unfold State.writeByte; split <;> rfl
@[simp] theorem State.writeByte_phase (a : Nat) (v : Byte) : (s.writeByte a v).phase = s.phase := by unfold State.writeByte; split <;> rfl
@[simp] theorem State.writeByte_cfg (a : Nat) (v : Byte) : (s.writeByte a v).cfg = s.cfg := by unfold State.writeByte; split <;> rfl
@[simp] theorem State.writeByte_draws (a : Nat) (v : Byte) : (s.writeByte a v).draws = s.draws := by unfold State.writeByte; split <;> rfl
@[simp] theorem State.writeByte_hostOps (a : Nat) (v : Byte) : (s.writeByte a v).hostOps = s.hostOps := by unfold State.writeByte; split <;> rfl

/-! ### storeBytes -/

/-- Storing bytes changes memory only. -/
theorem State.storeBytes_eq (a : Nat) (bs : List Byte) (s : State) : s.storeBytes a bs = { s with M := (s.storeBytes a bs).M } := by
  induction bs generalizing a s with
  | nil => rfl
  | cons b bs ih =>
    simp only [State.storeBytes]
    rw [ih]
    unfold State.writeByte
    split <;> rfl

@[simp] theorem State.storeBytes_V (a : Nat) (bs : List Byte) : (s.storeBytes a bs).V = s.V := by rw [State.storeBytes_eq]
@[simp] theorem State.storeBytes_I (a : Nat) (bs : List Byte) : (s.storeBytes a bs).I = s.I := by rw [State.storeBytes_eq]
@[simp] theorem State.storeBytes_pc (a : Nat) (bs : List Byte) : (s.storeBytes a bs).pc = s.pc := by rw [State.storeBytes_eq]
@[simp] theorem State.storeBytes_S (a : Nat) (bs : List Byte) : (s.storeBytes a bs).S = s.S := by rw [State.storeBytes_eq]
@[simp] theorem State.storeBytes_SP (a : Nat) (bs : List Byte) : (s.storeBytes a bs).SP = s.SP := by rw [State.storeBytes_eq]
@[simp] theorem State.storeBytes_DT (a : Nat) (bs : List Byte) : (s.storeBytes a bs).DT = s.DT := by rw [State.storeBytes_eq]
@[simp] theorem State.storeBytes_ST (a : Nat) (bs : List Byte) : (s.storeBytes a bs).ST = s.ST := by rw [State.storeBytes_eq]
@[simp] theorem State.storeBytes_FB (a : Nat) (bs : List Byte) : (s.storeBytes a bs).FB = s.FB := by rw [State.storeBytes_eq]
@[simp] theorem State.storeBytes_K (a : Nat) (bs : List Byte) : (s.storeBytes a bs).K = s.K := by rw [State.storeBytes_eq]
@[simp] theorem State.storeBytes_err (a : Nat) (bs : List Byte) : (s.storeBytes a bs).err = s.err := by rw [State.storeBytes_eq]
@[simp] theorem State.storeBytes_fault (a : Nat) (bs : List Byte) : (s.storeBytes a bs).fault = s.fault := by rw [State.storeBytes_eq]
@[simp] theorem State.storeBytes_phase (a : Nat) (bs : List Byte) : (s.storeBytes a bs).phase = s.phase := by rw [State.storeBytes_eq]
@[simp] theorem State.storeBytes_cfg (a : Nat) (bs : List Byte) : (s.storeBytes a bs).cfg = s.cfg := by rw [State.storeBytes_eq]
@[simp] theorem State.storeBytes_draws (a : Nat) (bs : List Byte) : (s.storeBytes a bs).draws = s.draws := by rw [State.storeBytes_eq]
@[simp] theorem State.storeBytes_hostOps (a : Nat) (bs : List Byte) : (s.storeBytes a bs).hostOps = s.hostOps := by rw [State.storeBytes_eq]

/-! ### logicFlag -/

@[simp] theorem State.logicFlag_I : s.logicFlag.I = s.I := by unfold State.logicFlag; split <;> rfl
@[simp] theorem State.logicFlag_pc : s.logicFlag.pc = s.pc := by unfold State.logicFlag; split <;> rfl
@[simp] theorem State.logicFlag_S : s.logicFlag.S = s.S := by unfold State.logicFlag; split <;> rfl
@[simp] theorem State.logicFlag_SP : s.logicFlag.SP = s.SP := by unfold State.logicFlag; split <;> rfl
@[simp] theorem State.logicFlag_DT : s.logicFlag.DT = s.DT := by unfold State.logicFlag; split <;> rfl
@[simp] theorem State.logicFlag_ST : s.logicFlag.ST = s.ST := by unfold State.logicFlag; split <;> rfl
@[simp] theorem State.logicFlag_M : s.logicFlag.M = s.M := by unfold State.logicFlag; split <;> rfl
@[simp] theorem State.logicFlag_FB : s.logicFlag.FB = s.FB := by unfold State.logicFlag; split <;> rfl
@[simp] theorem State.logicFlag_K : s.logicFlag.K = s.K := by unfold State.logicFlag; split <;> rfl
@[simp] theorem State.logicFlag_err : s.logicFlag.err = s.err := by unfold State.logicFlag; split <;> rfl
@[simp] theorem State.logicFlag_fault : s.logicFlag.fault = s.fault := by unfold State.logicFlag; split <;> rfl
@[simp] theorem State.logicFlag_phase : s.logicFlag.phase = s.phase := by unfold State.logicFlag; split <;> rfl
@[simp] theorem State.logicFlag_cfg : s.logicFlag.cfg = s.cfg := by unfold State.logicFlag; split <;> rfl
@[simp] theorem State.logicFlag_draws : s.logicFlag.draws = s.draws := by unfold State.logicFlag; split <;> rfl
@[simp] theorem State.logicFlag_hostOps : s.logicFlag.hostOps = s.hostOps := by unfold State.logicFlag; split <;> rfl

/-! ### endCycle -/

@[simp] theorem State.endCycle_V : s.endCycle.V = s.V := by unfold State.endCycle; split <;> rfl
@[simp] theorem State.endCycle_I : s.endCycle.I = s.I := by unfold State.endCycle; split <;> rfl
@[simp] theorem State.endCycle_pc : s.endCycle.pc = s.pc := by unfold State.endCycle; split <;> rfl
@[simp] theorem State.endCycle_S : s.endCycle.S = s.S := by unfold State.endCycle; split <;> rfl
@[simp] theorem State.endCycle_SP : s.endCycle.SP = s.SP := by unfold State.endCycle; split <;> rfl
@[simp] theorem State.endCycle_M : s.endCycle.M = s.M := by unfold State.endCycle; split <;> rfl
@[simp] theorem State.endCycle_FB : s.endCycle.FB = s.FB := by unfold State.endCycle; split <;> rfl
@[simp] theorem State.endCycle_K : s.endCycle.K = s.K := by unfold State.endCycle; split <;> rfl
@[simp] theorem State.endCycle_err : s.endCycle.err = s.err := by unfold State.endCycle; split <;> rfl
@[simp] theorem State.endCycle_fault : s.endCycle.fault = s.fault := by unfold State.endCycle; split <;> rfl
@[simp] theorem State.endCycle_phase : s.endCycle.phase = s.phase := by unfold State.endCycle; split <;> rfl
@[simp] theorem State.endCycle_cfg : s.endCycle.cfg = s.cfg := by unfold State.endCycle; split <;> rfl
@[simp] theorem State.endCycle_draws : s.endCycle.draws = s.draws := by unfold State.endCycle; split <;> rfl
@[simp] theorem State.endCycle_hostOps : s.endCycle.hostOps = s.hostOps := by unfold State.endCycle; split <;> rfl

/-- A skip moves the counter by 2 where its condition holds (R82). -/
@[simp] theorem State.skipIf_pc (c : Bool) : (s.skipIf c).pc = if c then s.pc + 2 else s.pc := by
  unfold State.skipIf; split <;> rfl

end Sys2Proof.Machine
end

