-- ==== Sys2Proof/Laws/Ops.lean ====
section
/-! SUPPORT. What each shared operation does: registers, bytes of memory, fetching, bounds checks, raising. -/

namespace Sys2Proof.Machine

variable (s : State)

/-! ### Reading through an update that leaves the registers or the memory alone -/

@[simp] theorem State.readV_writeI (w : Word) (r : Reg) : (s.writeI w).readV r = s.readV r := rfl
@[simp] theorem State.readByte_writeI (w : Word) (a : Nat) : (s.writeI w).readByte a = s.readByte a := rfl
@[simp] theorem State.memWf_writeI (w : Word) : (s.writeI w).memWf = s.memWf := rfl
@[simp] theorem State.readV_writeDT (b : Byte) (r : Reg) : (s.writeDT b).readV r = s.readV r := rfl
@[simp] theorem State.readByte_writeDT (b : Byte) (a : Nat) : (s.writeDT b).readByte a = s.readByte a := rfl
@[simp] theorem State.memWf_writeDT (b : Byte) : (s.writeDT b).memWf = s.memWf := rfl
@[simp] theorem State.readV_writeST (b : Byte) (r : Reg) : (s.writeST b).readV r = s.readV r := rfl
@[simp] theorem State.readByte_writeST (b : Byte) (a : Nat) : (s.writeST b).readByte a = s.readByte a := rfl
@[simp] theorem State.memWf_writeST (b : Byte) : (s.writeST b).memWf = s.memWf := rfl
@[simp] theorem State.readV_timerStep (r : Reg) : (s.timerStep).readV r = s.readV r := rfl
@[simp] theorem State.readByte_timerStep (a : Nat) : (s.timerStep).readByte a = s.readByte a := rfl
@[simp] theorem State.memWf_timerStep : (s.timerStep).memWf = s.memWf := rfl
@[simp] theorem State.readV_jump (w : Word) (r : Reg) : (s.jump w).readV r = s.readV r := rfl
@[simp] theorem State.readByte_jump (w : Word) (a : Nat) : (s.jump w).readByte a = s.readByte a := rfl
@[simp] theorem State.memWf_jump (w : Word) : (s.jump w).memWf = s.memWf := rfl
@[simp] theorem State.readV_advance (r : Reg) : (s.advance).readV r = s.readV r := rfl
@[simp] theorem State.readByte_advance (a : Nat) : (s.advance).readByte a = s.readByte a := rfl
@[simp] theorem State.memWf_advance : (s.advance).memWf = s.memWf := rfl
@[simp] theorem State.readV_rewind (r : Reg) : (s.rewind).readV r = s.readV r := rfl
@[simp] theorem State.readByte_rewind (a : Nat) : (s.rewind).readByte a = s.readByte a := rfl
@[simp] theorem State.memWf_rewind : (s.rewind).memWf = s.memWf := rfl
@[simp] theorem State.readV_push (w : Word) (h : s.SP.val < 16) (r : Reg) : (s.push w h).readV r = s.readV r := rfl
@[simp] theorem State.readByte_push (w : Word) (h : s.SP.val < 16) (a : Nat) : (s.push w h).readByte a = s.readByte a := rfl
@[simp] theorem State.memWf_push (w : Word) (h : s.SP.val < 16) : (s.push w h).memWf = s.memWf := rfl
@[simp] theorem State.readV_pop (h : s.SP.val ≠ 0) (r : Reg) : (s.pop h).readV r = s.readV r := rfl
@[simp] theorem State.readByte_pop (h : s.SP.val ≠ 0) (a : Nat) : (s.pop h).readByte a = s.readByte a := rfl
@[simp] theorem State.memWf_pop (h : s.SP.val ≠ 0) : (s.pop h).memWf = s.memWf := rfl
@[simp] theorem State.readV_drawByte (r : Reg) : (s.drawByte.2).readV r = s.readV r := rfl
@[simp] theorem State.readByte_drawByte (a : Nat) : (s.drawByte.2).readByte a = s.readByte a := rfl
@[simp] theorem State.memWf_drawByte : (s.drawByte.2).memWf = s.memWf := rfl
@[simp] theorem State.readV_raiseAt (p : Word) (e : ErrorState) (v : Option Nat) (r : Reg) : (s.raiseAt p e v).readV r = s.readV r := rfl
@[simp] theorem State.readByte_raiseAt (p : Word) (e : ErrorState) (v : Option Nat) (a : Nat) : (s.raiseAt p e v).readByte a = s.readByte a := rfl
@[simp] theorem State.memWf_raiseAt (p : Word) (e : ErrorState) (v : Option Nat) : (s.raiseAt p e v).memWf = s.memWf := rfl
@[simp] theorem State.readByte_writeV (x : Reg) (b : Byte) (a : Nat) : (s.writeV x b).readByte a = s.readByte a := rfl
@[simp] theorem State.memWf_writeV (x : Reg) (b : Byte) : (s.writeV x b).memWf = s.memWf := rfl
@[simp] theorem State.readByte_writeVs (bs : List Byte) (a : Nat) : (s.writeVs bs).readByte a = s.readByte a := rfl
@[simp] theorem State.memWf_writeVs (bs : List Byte) : (s.writeVs bs).memWf = s.memWf := rfl
@[simp] theorem State.readByte_writeFlag (c : Bool) (a : Nat) : (s.writeFlag c).readByte a = s.readByte a := rfl
@[simp] theorem State.memWf_writeFlag (c : Bool) : (s.writeFlag c).memWf = s.memWf := rfl
@[simp] theorem State.readV_skipIf (c : Bool) (r : Reg) : (s.skipIf c).readV r = s.readV r := by unfold State.skipIf; split <;> rfl
@[simp] theorem State.readByte_skipIf (c : Bool) (a : Nat) : (s.skipIf c).readByte a = s.readByte a := by unfold State.skipIf; split <;> rfl
@[simp] theorem State.memWf_skipIf (c : Bool) : (s.skipIf c).memWf = s.memWf := by unfold State.skipIf; split <;> rfl
@[simp] theorem State.readV_endCycle (r : Reg) : (s.endCycle).readV r = s.readV r := by unfold State.endCycle; split <;> rfl
@[simp] theorem State.readByte_endCycle (a : Nat) : (s.endCycle).readByte a = s.readByte a := by unfold State.endCycle; split <;> rfl
@[simp] theorem State.memWf_endCycle : (s.endCycle).memWf = s.memWf := by unfold State.endCycle; split <;> rfl
@[simp] theorem State.readByte_logicFlag (a : Nat) : (s.logicFlag).readByte a = s.readByte a := by unfold State.logicFlag; split <;> rfl
@[simp] theorem State.memWf_logicFlag : (s.logicFlag).memWf = s.memWf := by unfold State.logicFlag; split <;> rfl

/-! ### General registers -/

@[simp] theorem State.readV_writeV_same (x : Reg) (b : Byte) : (s.writeV x b).readV x = b := by
  simp [State.readV, State.writeV]

@[simp] theorem State.readV_writeV_ne {x r : Reg} (b : Byte) (h : r ≠ x) : (s.writeV x b).readV r = s.readV r := by
  have : x.val ≠ r.val := fun e => h (Fin.ext e.symm)
  simp [State.readV, State.writeV, this]

theorem State.readV_writeV (x r : Reg) (b : Byte) : (s.writeV x b).readV r = if r = x then b else s.readV r := by
  by_cases h : r = x
  · subst h; simp
  · simp [h]

@[simp] theorem State.readV_writeFlag_vf (c : Bool) : (s.writeFlag c).readV vf = flagByte c := State.readV_writeV_same s vf _

@[simp] theorem State.readV_writeFlag_ne {r : Reg} (c : Bool) (h : r ≠ vf) : (s.writeFlag c).readV r = s.readV r :=
  State.readV_writeV_ne s _ h

@[simp] theorem State.readV_storeBytes (a : Nat) (bs : List Byte) (r : Reg) : (s.storeBytes a bs).readV r = s.readV r := by
  simp [State.readV]

/-- Register `i` after the registers from `k` on are set: its byte of the list, where the list reaches it. -/
theorem setRegisters_getElem (k i : Nat) (bs : List Byte) (regs : Vector Byte 16) (hi : i < 16) :
    (setRegisters k bs regs)[i] = if k ≤ i then (bs[i - k]?).getD regs[i] else regs[i] := by
  induction bs generalizing k regs with
  | nil => simp [setRegisters]
  | cons b bs ih =>
    rw [setRegisters, ih]
    rcases Nat.lt_trichotomy i k with h | h | h
    · have h1 : ¬ k ≤ i := by omega
      have h2 : ¬ k + 1 ≤ i := by omega
      simp [h1, h2, Nat.ne_of_gt h]
    · subst h
      simp
    · have h1 : k ≤ i := by omega
      have h2 : k + 1 ≤ i := by omega
      have h3 : i - k = (i - (k + 1)) + 1 := by omega
      simp [h1, h2, h3, Nat.ne_of_lt h]

theorem State.readV_writeVs (bs : List Byte) (r : Reg) : (s.writeVs bs).readV r = (bs[r.val]?).getD (s.readV r) := by
  simp [State.readV, State.writeVs, setRegisters_getElem]

theorem State.readV_logicFlag (r : Reg) :
    s.logicFlag.readV r = if s.cfg.logicResetsVF = true ∧ r = vf then 0 else s.readV r := by
  unfold State.logicFlag
  by_cases hc : s.cfg.logicResetsVF = true <;> by_cases hr : r = vf <;> simp [hc, hr, flagByte]

theorem flagByte_toNat (c : Bool) : (flagByte c).toNat = if c then 1 else 0 := by cases c <;> rfl

theorem countDown_toNat (t : Byte) : (countDown t).toNat = t.toNat - 1 := by
  unfold countDown
  split
  · rename_i h; subst h; rfl
  · rename_i h
    have : t.toNat ≠ 0 := fun e => h (BitVec.eq_of_toNat_eq e)
    rw [BitVec.toNat_sub]
    have := t.isLt
    simp only [BitVec.ofNat_eq_ofNat, BitVec.toNat_ofNat]
    omega

theorem State.ext_readV {s t : State} (h : ∀ r, t.readV r = s.readV r) : t.V = s.V := by
  apply Vector.ext
  intro i hi
  exact h ⟨i, hi⟩

/-! ### Bytes of memory -/

/-- A byte written inside the space is read back. -/
theorem State.readByte_writeByte_same {a : Nat} {v : Byte} (ha : a < memSize) (h : s.memWf = true) :
    (s.writeByte a v).readByte a = v := by
  simp only [State.writeByte, ha, if_true, State.readByte]
  exact Memory.read_write_same _ _ _ h

/-- A write leaves every other byte alone. -/
theorem State.readByte_writeByte_other {a b : Nat} {v : Byte} (hne : b ≠ a) :
    (s.writeByte a v).readByte b = s.readByte b := by
  unfold State.writeByte
  split
  · exact Memory.read_write_other _ _ _ _ hne
  · rfl

/-- A write keeps the canonical form. -/
theorem State.memWf_writeByte (a : Nat) (v : Byte) (h : s.memWf = true) : (s.writeByte a v).memWf = true := by
  unfold State.writeByte
  split
  · rename_i ha; exact Memory.wf_write ha h
  · exact h

/-- Storing bytes keeps the canonical form. -/
theorem State.memWf_storeBytes (a : Nat) (bs : List Byte) (h : s.memWf = true) : (s.storeBytes a bs).memWf = true := by
  induction bs generalizing a s with
  | nil => exact h
  | cons b bs ih => exact ih _ _ (State.memWf_writeByte s a b h)

/-- Storing bytes leaves every byte outside them alone. -/
theorem State.readByte_storeBytes_outside {a b : Nat} {bs : List Byte} (h : b < a ∨ a + bs.length ≤ b) :
    (s.storeBytes a bs).readByte b = s.readByte b := by
  induction bs generalizing a s with
  | nil => rfl
  | cons c bs ih =>
    simp only [List.length_cons] at h
    simp only [State.storeBytes]
    rw [ih _ (by omega), State.readByte_writeByte_other _ (by omega)]

/-- Bytes stored inside the space are read back. -/
theorem State.readByte_storeBytes {a k : Nat} {bs : List Byte} (hwf : s.memWf = true) (hk : k < bs.length)
    (ha : a + bs.length ≤ memSize) : (s.storeBytes a bs).readByte (a + k) = bs[k] := by
  induction bs generalizing a k s with
  | nil => simp at hk
  | cons c bs ih =>
    simp only [List.length_cons] at hk ha
    simp only [State.storeBytes]
    cases k with
    | zero =>
      rw [State.readByte_storeBytes_outside _ (by omega)]
      exact State.readByte_writeByte_same s (by omega) hwf
    | succ k =>
      have := ih (s.writeByte a c) (a := a + 1) (k := k) (State.memWf_writeByte s a c hwf) (by omega) (by omega)
      rw [show a + (k + 1) = a + 1 + k by omega, this]
      rfl

@[simp] theorem State.loadBytes_length (a n : Nat) : (s.loadBytes a n).length = n := by simp [State.loadBytes]

theorem State.loadBytes_getElem (a n k : Nat) (h : k < (s.loadBytes a n).length) :
    (s.loadBytes a n)[k] = s.readByte (a + k) := by simp [State.loadBytes]

/-! ### Bounds checks and fetching -/

/-- No fault where the block is empty or ends inside the space. -/
theorem blockFault_eq_none {base len : Nat} : blockFault base len = none ↔ len = 0 ∨ base + len ≤ memSize := by
  unfold blockFault
  split <;> simp <;> omega

/-- The fault is the lowest address of the block outside the space. -/
theorem blockFault_eq_some {base len a : Nat} :
    blockFault base len = some a ↔ 0 < len ∧ memSize < base + len ∧ a = max base memSize := by
  unfold blockFault
  split
  · rename_i h
    simp only [Option.some.injEq]
    constructor
    · intro e; exact ⟨h.1, by omega, e.symm⟩
    · intro e; exact e.2.2.symm
  · rename_i h
    simp only [reduceCtorEq, false_iff]
    omega

/-- Inside the space a fetch reads the big-endian word (R45). -/
theorem State.fetchAt_inside {p : Word} (h : p.toNat + 1 < memSize) :
    s.fetchAt p = .ok (wordOfBytes (s.readByte p.toNat) (s.readByte (p.toNat + 1))) := by
  have : p.toNat < memSize := by omega
  simp [State.fetchAt, State.memRead, h, this]

/-- At the end of the space or beyond it a fetch fails on its first byte that does not exist (R45, R72). -/
theorem State.fetchAt_outside {p : Word} (h : ¬ p.toNat + 1 < memSize) :
    s.fetchAt p = .error (max p.toNat memSize) := by
  by_cases h' : p.toNat < memSize
  · simp only [State.fetchAt, State.memRead, h, h', if_true, if_false]
    congr 1; omega
  · simp only [State.fetchAt, State.memRead, h', if_false]
    congr 1; omega

/-- Where a fetch succeeds, the word there is the fetched one. -/
theorem State.wordAt_of_fetchAt {p w : Word} (h : s.fetchAt p = .ok w) : s.wordAt p = some w := by
  simp [State.wordAt, h]

/-- Where a fetch fails, there is no word. -/
theorem State.wordAt_of_fetchAt_error {p : Word} {a : Nat} (h : s.fetchAt p = .error a) : s.wordAt p = none := by
  simp [State.wordAt, h]

@[simp] theorem State.fetchAt_advance (p : Word) : s.advance.fetchAt p = s.fetchAt p := rfl
@[simp] theorem State.wordAt_advance (p : Word) : s.advance.wordAt p = s.wordAt p := rfl

/-! ### Raising -/

/-- What a raise answers, and that it always answers (R78, R123). -/
theorem raise_eq (e : ErrorState) (v : Option Nat) :
    raise e v s = .next { s with pc := s.pc - 2, err := e, fault := some ⟨some (s.pc - 2), s.wordAt (s.pc - 2), v⟩ } := rfl

/-- A raise in a handler, seen from the state before the advance: only `err` and `fault` change (R78). -/
theorem raise_advance (e : ErrorState) (v : Option Nat) :
    raise e v s.advance = .next { s with err := e, fault := some ⟨some s.pc, s.wordAt s.pc, v⟩ } := by
  simp [raise, State.raiseAt, State.advance]
  rfl

/-- The timer step runs where the cycle raised nothing (R76). -/
theorem State.endCycle_of_ok (h : s.err = .ok) : s.endCycle = s.timerStep := by simp [State.endCycle, h]

/-- A cycle that raised ends without the timer step (R78). -/
theorem State.endCycle_of_error (h : s.err ≠ .ok) : s.endCycle = s := by
  unfold State.endCycle
  split
  · rename_i h'; exact absurd h' h
  · rfl

end Sys2Proof.Machine
end

