-- ==== Sys2Proof/Laws/Operands.lean ====
section
/-! SUPPORT. What each operand form gives. -/

namespace Sys2Proof.Machine

variable (s : State)

theorem addressOf_toNat (nnn : BitVec 12) : (addressOf nnn).toNat = nnn.toNat := by
  have := nnn.isLt
  simp [addressOf]
  omega

theorem glyphAddress_toNat (v : Byte) : (glyphAddress v).toNat = 0x050 + 5 * v.toNat := by
  have := v.isLt
  simp [glyphAddress]
  omega

@[simp] theorem bcdDigits_length (v : Byte) : (bcdDigits v).length = 3 := rfl

@[simp] theorem State.registersUpTo_length (x : Reg) : (s.registersUpTo x).length = x.val + 1 := by
  have := x.isLt
  simp only [State.registersUpTo, List.length_take, Vector.length_toList]
  omega

theorem State.registersUpTo_getElem (x k : Reg) (h : k.val < (s.registersUpTo x).length) :
    (s.registersUpTo x)[k.val] = s.readV k := by
  simp [State.registersUpTo, State.readV]

theorem State.blockNextI_toNat (x : Reg) :
    (s.blockNextI x).toNat = if s.cfg.loadStoreIncrementsI then (s.I.toNat + x.val + 1) % 65536 else s.I.toNat := by
  unfold State.blockNextI
  split <;> simp

/-- A key number below 16 is a key. -/
theorem State.keyOperand_ok {x : Reg} {k : Fin 16} (h : (s.readV x).toNat = k.val) : s.keyOperand x = .ok k := by
  unfold State.keyOperand
  rw [dif_pos (by omega)]
  congr 1
  exact Fin.ext h

/-- A key number above 15 is none. -/
theorem State.keyOperand_error {x : Reg} (h : (s.readV x).toNat > 15) : s.keyOperand x = .error (s.readV x).toNat := by
  unfold State.keyOperand
  rw [dif_neg (by omega)]

/-- With no key pressed there is no first key. -/
theorem State.firstKey_none (h : ∀ k : Fin 16, s.K[k.val] = false) : s.firstKey = none := by
  unfold State.firstKey
  rw [List.find?_eq_none]
  intro k _
  simp [State.keyPressed, h k]

/-- The first key is the lowest pressed one. -/
theorem State.firstKey_some {k : Fin 16} (hk : s.K[k.val] = true) (hlow : ∀ j : Fin 16, j < k → s.K[j.val] = false) :
    s.firstKey = some k := by
  unfold State.firstKey
  rw [List.find?_eq_some_iff_getElem]
  refine ⟨by simpa [State.keyPressed] using hk, k.val, by simp, by simp, fun j hj => ?_⟩
  simp [State.keyPressed, hlow ⟨j, by omega⟩ hj]

/-- A result and then a flag leave every other register alone. -/
theorem State.readV_writeV_writeFlag_ne {x r : Reg} (b : Byte) (c : Bool) (hx : r ≠ x) (hf : r ≠ vf) :
    ((s.writeV x b).writeFlag c).readV r = s.readV r := by simp [hx, hf]

/-- The result stands where it is not the flag register. -/
theorem State.readV_writeV_writeFlag_dest {x : Reg} (b : Byte) (c : Bool) (h : x ≠ vf) :
    ((s.writeV x b).writeFlag c).readV x = b := by simp [h]

end Sys2Proof.Machine
end

