-- ==== Sys2Proof/Laws/PerInstr.lean ====
section
/-! SUPPORT. A law of every instruction: its canonical word selects its own row of the opcode map (R65, R69). -/

namespace Sys2Proof

theorem ofXKK_toNat {f : Nat} (hf : f < 16) (x : Reg) {kk : Nat} (hk : kk < 256) :
    (ofXKK f x kk).toNat = f * 4096 + x.val * 256 + kk := by
  have := x.isLt
  simp only [ofXKK, BitVec.toNat_ofNat]
  omega

theorem ofNibbles_toNat {a d : Nat} (ha : a < 16) (b c : Reg) (hd : d < 16) :
    (ofNibbles a b c d).toNat = a * 4096 + b.val * 256 + c.val * 16 + d := by
  have := b.isLt
  have := c.isLt
  simp only [ofNibbles, BitVec.toNat_ofNat]
  omega

theorem ofNNN_toNat {f : Nat} (hf : f < 16) (nnn : BitVec 12) : (ofNNN f nnn).toNat = f * 4096 + nnn.toNat := by
  have := nnn.isLt
  simp only [ofNNN, BitVec.toNat_ofNat]
  omega

theorem selects_of_F000 {k v : Nat} {p w : Word} (hp : p.toNat = v) (h : w.toNat / 4096 * 4096 = v) :
    (OpcodeRow.mk k p 0xF000).selects w = true := by
  simpa [OpcodeRow.selects] using (and_F000_eq_iff w p).2 (h.trans hp.symm)

theorem selects_of_F00F {k v : Nat} {p w : Word} (hp : p.toNat = v) (h : w.toNat / 4096 * 4096 + w.toNat % 16 = v) :
    (OpcodeRow.mk k p 0xF00F).selects w = true := by
  simpa [OpcodeRow.selects] using (and_F00F_eq_iff w p).2 (h.trans hp.symm)

theorem selects_of_F0FF {k v : Nat} {p w : Word} (hp : p.toNat = v) (h : w.toNat / 4096 * 4096 + w.toNat % 256 = v) :
    (OpcodeRow.mk k p 0xF0FF).selects w = true := by
  simpa [OpcodeRow.selects] using (and_F0FF_eq_iff w p).2 (h.trans hp.symm)

namespace Laws.EncodedRow

/-- The instruction's canonical word selects the row that is its own; an unmapped slot has no row. -/
def Statement (i : Instr) : Prop :=
  match i.rowNumber with
  | some k => ∃ r, opcodeMap.find? (fun r => r.number == k) = some r ∧ r.selects (encode i) = true
  | none   => True

theorem cls : Statement .cls := ⟨_, rfl, by decide⟩

theorem ret : Statement .ret := ⟨_, rfl, by decide⟩

theorem jp (nnn : BitVec 12) : Statement (.jp nnn) := by
  have := nnn.isLt
  exact ⟨_, rfl, selects_of_F000 (v := 0x1000) rfl (by rw [encode, ofNNN_toNat (by decide) nnn]; omega)⟩

theorem call (nnn : BitVec 12) : Statement (.call nnn) := by
  have := nnn.isLt
  exact ⟨_, rfl, selects_of_F000 (v := 0x2000) rfl (by rw [encode, ofNNN_toNat (by decide) nnn]; omega)⟩

theorem seImm (x : Reg) (kk : Byte) : Statement (.seImm x kk) := by
  have := x.isLt; have := kk.isLt
  exact ⟨_, rfl, selects_of_F000 (v := 0x3000) rfl (by rw [encode, ofXKK_toNat (by decide) x kk.isLt]; omega)⟩

theorem sneImm (x : Reg) (kk : Byte) : Statement (.sneImm x kk) := by
  have := x.isLt; have := kk.isLt
  exact ⟨_, rfl, selects_of_F000 (v := 0x4000) rfl (by rw [encode, ofXKK_toNat (by decide) x kk.isLt]; omega)⟩

theorem seReg (x : Reg) (y : Reg) : Statement (.seReg x y) := by
  have := x.isLt; have := y.isLt
  exact ⟨_, rfl, selects_of_F000 (v := 0x5000) rfl (by rw [encode, ofNibbles_toNat (by decide) x y (by decide)]; omega)⟩

theorem ldImm (x : Reg) (kk : Byte) : Statement (.ldImm x kk) := by
  have := x.isLt; have := kk.isLt
  exact ⟨_, rfl, selects_of_F000 (v := 0x6000) rfl (by rw [encode, ofXKK_toNat (by decide) x kk.isLt]; omega)⟩

theorem addImm (x : Reg) (kk : Byte) : Statement (.addImm x kk) := by
  have := x.isLt; have := kk.isLt
  exact ⟨_, rfl, selects_of_F000 (v := 0x7000) rfl (by rw [encode, ofXKK_toNat (by decide) x kk.isLt]; omega)⟩

theorem ldReg (x : Reg) (y : Reg) : Statement (.ldReg x y) := by
  have := x.isLt; have := y.isLt
  exact ⟨_, rfl, selects_of_F00F (v := 0x8000) rfl (by rw [encode, ofNibbles_toNat (by decide) x y (by decide)]; omega)⟩

theorem orReg (x : Reg) (y : Reg) : Statement (.orReg x y) := by
  have := x.isLt; have := y.isLt
  exact ⟨_, rfl, selects_of_F00F (v := 0x8001) rfl (by rw [encode, ofNibbles_toNat (by decide) x y (by decide)]; omega)⟩

theorem andReg (x : Reg) (y : Reg) : Statement (.andReg x y) := by
  have := x.isLt; have := y.isLt
  exact ⟨_, rfl, selects_of_F00F (v := 0x8002) rfl (by rw [encode, ofNibbles_toNat (by decide) x y (by decide)]; omega)⟩

theorem xorReg (x : Reg) (y : Reg) : Statement (.xorReg x y) := by
  have := x.isLt; have := y.isLt
  exact ⟨_, rfl, selects_of_F00F (v := 0x8003) rfl (by rw [encode, ofNibbles_toNat (by decide) x y (by decide)]; omega)⟩

theorem addReg (x : Reg) (y : Reg) : Statement (.addReg x y) := by
  have := x.isLt; have := y.isLt
  exact ⟨_, rfl, selects_of_F00F (v := 0x8004) rfl (by rw [encode, ofNibbles_toNat (by decide) x y (by decide)]; omega)⟩

theorem sub (x : Reg) (y : Reg) : Statement (.sub x y) := by
  have := x.isLt; have := y.isLt
  exact ⟨_, rfl, selects_of_F00F (v := 0x8005) rfl (by rw [encode, ofNibbles_toNat (by decide) x y (by decide)]; omega)⟩

theorem shr (x : Reg) (y : Reg) : Statement (.shr x y) := by
  have := x.isLt; have := y.isLt
  exact ⟨_, rfl, selects_of_F00F (v := 0x8006) rfl (by rw [encode, ofNibbles_toNat (by decide) x y (by decide)]; omega)⟩

theorem subn (x : Reg) (y : Reg) : Statement (.subn x y) := by
  have := x.isLt; have := y.isLt
  exact ⟨_, rfl, selects_of_F00F (v := 0x8007) rfl (by rw [encode, ofNibbles_toNat (by decide) x y (by decide)]; omega)⟩

theorem shl (x : Reg) (y : Reg) : Statement (.shl x y) := by
  have := x.isLt; have := y.isLt
  exact ⟨_, rfl, selects_of_F00F (v := 0x800E) rfl (by rw [encode, ofNibbles_toNat (by decide) x y (by decide)]; omega)⟩

theorem sneReg (x : Reg) (y : Reg) : Statement (.sneReg x y) := by
  have := x.isLt; have := y.isLt
  exact ⟨_, rfl, selects_of_F000 (v := 0x9000) rfl (by rw [encode, ofNibbles_toNat (by decide) x y (by decide)]; omega)⟩

theorem ldI (nnn : BitVec 12) : Statement (.ldI nnn) := by
  have := nnn.isLt
  exact ⟨_, rfl, selects_of_F000 (v := 0xA000) rfl (by rw [encode, ofNNN_toNat (by decide) nnn]; omega)⟩

theorem jpV0 (x : Reg) (nnn : BitVec 12) : Statement (.jpV0 x nnn) := by
  have := nnn.isLt
  exact ⟨_, rfl, selects_of_F000 (v := 0xB000) rfl (by rw [encode, ofNNN_toNat (by decide) nnn]; omega)⟩

theorem rnd (x : Reg) (kk : Byte) : Statement (.rnd x kk) := by
  have := x.isLt; have := kk.isLt
  exact ⟨_, rfl, selects_of_F000 (v := 0xC000) rfl (by rw [encode, ofXKK_toNat (by decide) x kk.isLt]; omega)⟩

theorem drw (x : Reg) (y : Reg) (n : Fin 16) : Statement (.drw x y n) := by
  have := x.isLt; have := y.isLt; have := n.isLt
  exact ⟨_, rfl, selects_of_F000 (v := 0xD000) rfl (by rw [encode, ofNibbles_toNat (by decide) x y n.isLt]; omega)⟩

theorem skp (x : Reg) : Statement (.skp x) := by
  have := x.isLt
  exact ⟨_, rfl, selects_of_F00F (v := 0xE00E) rfl (by rw [encode, ofXKK_toNat (by decide) x (by decide)]; omega)⟩

theorem sknp (x : Reg) : Statement (.sknp x) := by
  have := x.isLt
  exact ⟨_, rfl, selects_of_F00F (v := 0xE001) rfl (by rw [encode, ofXKK_toNat (by decide) x (by decide)]; omega)⟩

theorem ldFromDT (x : Reg) : Statement (.ldFromDT x) := by
  have := x.isLt
  exact ⟨_, rfl, selects_of_F0FF (v := 0xF007) rfl (by rw [encode, ofXKK_toNat (by decide) x (by decide)]; omega)⟩

theorem ldK (x : Reg) : Statement (.ldK x) := by
  have := x.isLt
  exact ⟨_, rfl, selects_of_F0FF (v := 0xF00A) rfl (by rw [encode, ofXKK_toNat (by decide) x (by decide)]; omega)⟩

theorem ldDT (x : Reg) : Statement (.ldDT x) := by
  have := x.isLt
  exact ⟨_, rfl, selects_of_F0FF (v := 0xF015) rfl (by rw [encode, ofXKK_toNat (by decide) x (by decide)]; omega)⟩

theorem ldST (x : Reg) : Statement (.ldST x) := by
  have := x.isLt
  exact ⟨_, rfl, selects_of_F0FF (v := 0xF018) rfl (by rw [encode, ofXKK_toNat (by decide) x (by decide)]; omega)⟩

theorem addI (x : Reg) : Statement (.addI x) := by
  have := x.isLt
  exact ⟨_, rfl, selects_of_F0FF (v := 0xF01E) rfl (by rw [encode, ofXKK_toNat (by decide) x (by decide)]; omega)⟩

theorem ldF (x : Reg) : Statement (.ldF x) := by
  have := x.isLt
  exact ⟨_, rfl, selects_of_F0FF (v := 0xF029) rfl (by rw [encode, ofXKK_toNat (by decide) x (by decide)]; omega)⟩

theorem ldB (x : Reg) : Statement (.ldB x) := by
  have := x.isLt
  exact ⟨_, rfl, selects_of_F0FF (v := 0xF033) rfl (by rw [encode, ofXKK_toNat (by decide) x (by decide)]; omega)⟩

theorem stRegs (x : Reg) : Statement (.stRegs x) := by
  have := x.isLt
  exact ⟨_, rfl, selects_of_F0FF (v := 0xF055) rfl (by rw [encode, ofXKK_toNat (by decide) x (by decide)]; omega)⟩

theorem ldRegs (x : Reg) : Statement (.ldRegs x) := by
  have := x.isLt
  exact ⟨_, rfl, selects_of_F0FF (v := 0xF065) rfl (by rw [encode, ofXKK_toNat (by decide) x (by decide)]; omega)⟩

theorem unmapped0 (low : BitVec 12) : Statement (.unmapped0 low) := trivial

theorem unmapped8 (low : BitVec 12) : Statement (.unmapped8 low) := trivial

theorem unmappedE (low : BitVec 12) : Statement (.unmappedE low) := trivial

theorem unmappedF (low : BitVec 12) : Statement (.unmappedF low) := trivial

end Laws.EncodedRow

end Sys2Proof
end

