-- ==== Sys2Proof/Laws/Step.lean ====
section
/-! SUPPORT. What a handler, a cycle and a step can answer, said once. -/

namespace Sys2Proof.Machine

variable {s t : State}

/-! ### Handlers -/

/-- A raised state, by its two names. -/
theorem State.raised_eq (e : ErrorState) (v : Option Nat) : s.raised e v = s.raiseAt (s.pc - 2) e v := rfl

/-- `raise` answers the raised state. -/
theorem raise_eq_raised (e : ErrorState) (v : Option Nat) : raise e v s = .next (s.raised e v) := rfl

/-- A handler answers a next state, whatever the instruction and the state. -/
theorem exec_next (i : Instr) (s : State) : ∃ t, exec i s = .next t := by
  cases i <;> first
    | exact ⟨_, rfl⟩
    | (simp only [exec, execRet, execCall, execLdB, execStRegs, execLdRegs, execDrw, execSkp, execSknp, execLdK,
        execUnmapped0, execUnmapped8, execUnmappedE, execUnmappedF, unmappedSlot, raise]
       repeat' split
       all_goals exact ⟨_, rfl⟩)

/-- No handler writes the keypad, the phase, the parameters or the host's plans (R75). -/
theorem exec_keeps {i : Instr} (h : exec i s = .next t) :
    t.K = s.K ∧ t.phase = s.phase ∧ t.cfg = s.cfg ∧ t.hostOps = s.hostOps := by
  cases i <;>
    simp only [exec, execCls, execRet, execJp, execCall, execSeImm, execSneImm, execSeReg, execLdImm, execAddImm, execLdReg,
      execOrReg, execAndReg, execXorReg, execAddReg, execSub, execShr, execSubn, execShl, execSneReg, execLdI, execJpV0,
      execRnd, execDrw, execSkp, execSknp, execLdFromDT, execLdK, execLdDT, execLdST, execAddI, execLdF, execLdB,
      execStRegs, execLdRegs, execUnmapped0, execUnmapped8, execUnmappedE, execUnmappedF, unmappedSlot, raise] at h <;>
    (try split at h) <;> (try split at h) <;> (obtain rfl := Host.Outcome.next.inj h) <;> simp

/-- Every handler keeps the canonical form of memory. -/
theorem exec_memWf {i : Instr} (h : exec i s = .next t) (hw : s.memWf = true) : t.memWf = true := by
  have hstore := fun a bs => State.memWf_storeBytes s a bs hw
  cases i <;>
    simp only [exec, execCls, execRet, execJp, execCall, execSeImm, execSneImm, execSeReg, execLdImm, execAddImm, execLdReg,
      execOrReg, execAndReg, execXorReg, execAddReg, execSub, execShr, execSubn, execShl, execSneReg, execLdI, execJpV0,
      execRnd, execDrw, execSkp, execSknp, execLdFromDT, execLdK, execLdDT, execLdST, execAddI, execLdF, execLdB,
      execStRegs, execLdRegs, execUnmapped0, execUnmapped8, execUnmappedE, execUnmappedF, unmappedSlot, raise] at h <;>
    (try split at h) <;> (try split at h) <;> (obtain rfl := Host.Outcome.next.inj h) <;>
    first
      | exact hw
      | (simp only [State.memWf_logicFlag, State.memWf_skipIf, State.memWf_writeV, State.memWf_writeI]; exact hw)
      | exact hstore _ _

/-! ### Cycles and steps -/

theorem step_of_cycleNext (h : s.CycleNext) : step s = cycle s := by
  have h' : s.hostOps = [] := h
  simp [step, hostTurn, h']

theorem cycle_of_running (h : s.Running) : cycle s = runCycle s := by
  simp [cycle, h.1, h.2]

/-- A cycle is admitted only on a running machine (R71). -/
theorem running_of_cycle_next (h : cycle s = .next t) : s.Running := by
  unfold cycle at h
  split at h
  · rename_i h1 h2; exact ⟨h1, h2⟩
  · cases h
  · cases h

/-- What a cycle on a running machine does (R72 to R77): it raises at the fetch, or runs the handler and ends. -/
theorem runCycle_cases (s : State) :
    (∃ a, s.fetchAt s.pc = .error a ∧ runCycle s = .next (s.raiseAt s.pc .addressOutOfRange (some a))) ∨
    (∃ w t, s.fetchAt s.pc = .ok w ∧ exec (decodeWord w) s.advance = .next t ∧ runCycle s = .next t.endCycle) := by
  cases hf : s.fetchAt s.pc with
  | error a => exact .inl ⟨a, rfl, by simp [runCycle, hf]⟩
  | ok w =>
    obtain ⟨t, ht⟩ := exec_next (decodeWord w) s.advance
    exact .inr ⟨w, t, rfl, ht, by simp [runCycle, hf, runWord, ht]⟩

/-- Where a word stands, the fetch reads it. -/
theorem State.fetchAt_of_wordAt {p w : Word} (h : s.wordAt p = some w) : s.fetchAt p = .ok w := by
  unfold State.wordAt at h
  split at h
  · rename_i h'; rw [h', Option.some.inj h]
  · cases h

/-- A step over a fetched word, in one equation (R73 to R77). -/
theorem step_of_word {w : Word} (hr : s.Running) (hc : s.CycleNext) (hw : s.wordAt s.pc = some w)
    (ht : exec (decodeWord w) s.advance = .next t) : step s = .next t.endCycle := by
  rw [step_of_cycleNext hc, cycle_of_running hr, runCycle, State.fetchAt_of_wordAt hw]
  simp [runWord, ht]

end Sys2Proof.Machine
end

