-- ==== Sys2Proof/Machine/Assembly.lean ====
section
/-! DEFINITION. Assembly: the canonical encoding of a program as a ROM image, and the written form of an instruction
(spec/30_encoding.md R68 to R70). No step depends on it. -/

namespace Sys2Proof.Machine

/-- A line of a program: an instruction, or a data byte `DB b` (R68). There are no pseudo-instructions (R69). -/
inductive AsmLine where
  | instr (i : Instr)
  | db (b : Byte)
  deriving Repr

/-- The bytes of a line: the canonical word high byte first, or the data byte (R69, R70). -/
def AsmLine.bytes : AsmLine → List Byte
  | .instr i => encodeBytes i
  | .db b    => [b]

/-- The ROM image of a program (R70). -/
def assemble (p : List AsmLine) : List Byte := p.flatMap AsmLine.bytes

/-- The load port's input for a program (R140). -/
def romOf (p : List AsmLine) : RomSource := .image (assemble p)

/-- A hexadecimal literal of at least `digits` digits, padded with zeros and in upper case (DESIGN CHOICE, log entry 16). -/
def hexText (digits n : Nat) : String :=
  let numeral := Nat.toDigits 16 n
  "0x" ++ (String.ofList (List.replicate (digits - numeral.length) '0' ++ numeral)).toUpper

/-- A byte literal, `0x00` to `0xFF` (R68), with two digits as in the listings of spec/95_test_vectors.md (log entry 16). -/
def byteText (b : Byte) : String := hexText 2 b.toNat

/-- An address literal, `0x000` to `0xFFF` (R68), with three digits as in the listings of spec/95_test_vectors.md (log entry 16). -/
def addressText (nnn : BitVec 12) : String := hexText 3 nnn.toNat

/-- `V0` to `VF` (R18). -/
def regText (x : Reg) : String := "V" ++ (String.ofList (Nat.toDigits 16 x.val)).toUpper

/-- A mnemonic and its operands. -/
def opText (m : String) (operands : List String) : String := m ++ " " ++ String.intercalate ", " operands

/-- A shift, with `Vy` left out where it assembles the same (R68). -/
def shiftText (m : String) (x y : Reg) : String :=
  if y = 0 then opText m [regText x] else opText m [regText x, regText y]

/-- The written form of an instruction; an unmapped word, which has none, is two data bytes (R65, R68). -/
def instrText : Instr → String
  | .cls         => "CLS"
  | .ret         => "RET"
  | .jp nnn      => opText "JP" [addressText nnn]
  | .call nnn    => opText "CALL" [addressText nnn]
  | .seImm x kk  => opText "SE" [regText x, byteText kk]
  | .sneImm x kk => opText "SNE" [regText x, byteText kk]
  | .seReg x y   => opText "SE" [regText x, regText y]
  | .ldImm x kk  => opText "LD" [regText x, byteText kk]
  | .addImm x kk => opText "ADD" [regText x, byteText kk]
  | .ldReg x y   => opText "LD" [regText x, regText y]
  | .orReg x y   => opText "OR" [regText x, regText y]
  | .andReg x y  => opText "AND" [regText x, regText y]
  | .xorReg x y  => opText "XOR" [regText x, regText y]
  | .addReg x y  => opText "ADD" [regText x, regText y]
  | .sub x y     => opText "SUB" [regText x, regText y]
  | .shr x y     => shiftText "SHR" x y
  | .subn x y    => opText "SUBN" [regText x, regText y]
  | .shl x y     => shiftText "SHL" x y
  | .sneReg x y  => opText "SNE" [regText x, regText y]
  | .ldI nnn     => opText "LD" ["I", addressText nnn]
  | .jpV0 _ nnn  => opText "JP" ["V0", addressText nnn]
  | .rnd x kk    => opText "RND" [regText x, byteText kk]
  | .drw x y n   => opText "DRW" [regText x, regText y, Nat.repr n.val]
  | .skp x       => opText "SKP" [regText x]
  | .sknp x      => opText "SKNP" [regText x]
  | .ldFromDT x  => opText "LD" [regText x, "DT"]
  | .ldK x       => opText "LD" [regText x, "K"]
  | .ldDT x      => opText "LD" ["DT", regText x]
  | .ldST x      => opText "LD" ["ST", regText x]
  | .addI x      => opText "ADD" ["I", regText x]
  | .ldF x       => opText "LD" ["F", regText x]
  | .ldB x       => opText "LD" ["B", regText x]
  | .stRegs x    => opText "LD" ["[I]", regText x]
  | .ldRegs x    => opText "LD" [regText x, "[I]"]
  | .unmapped0 low => dbText (encode (.unmapped0 low))
  | .unmapped8 low => dbText (encode (.unmapped8 low))
  | .unmappedE low => dbText (encode (.unmappedE low))
  | .unmappedF low => dbText (encode (.unmappedF low))
where
  /-- A word as two data bytes, high byte first. -/
  dbText (w : Word) : String :=
    opText "DB" [byteText (highByte w)] ++ "\n" ++ opText "DB" [byteText (lowByte w)]

end Sys2Proof.Machine
end

