-- ==== Sys2Proof/Tests/Slice0.lean ====
section
/-! SUPPORT. Tests: ill-formed terms refused, a word of every encoding decoded, the vectors of spec/95_test_vectors.md (named by
their ids), and for every statement with hypotheses a state and operands that meet them. -/

namespace Sys2Proof.Tests
set_option Elab.async false
open Sys2Proof Sys2Proof.Machine

/-- The outcome is a next state that passes a check. -/
def onNext (o : Host.Outcome State Fault Refusal) (p : State → Bool) : Bool :=
  match o with
  | .next t => p t
  | _       => false

/-- One cycle of a state with the word `w` at its `pc` passes a check. -/
def after (w : Nat) (s : State) (p : State → Bool) : Bool := onNext (step (s.withFetchWord 16 w)) p

/-- The fault record's offending value. -/
def faultValue (s : State) : Option Nat := s.fault.bind (·.value)

/-- Reset under other parameters. -/
def under (f : Config → Config) : State := State.construct (f defaultConfig)

/-! ## Well-formedness -/

theorem test_illformed_jpV0 : (Instr.jpV0 3 0x400).wellFormed = false := by decide
theorem test_illformed_unmapped0 : (Instr.unmapped0 0x0E0).wellFormed = false ∧ (Instr.unmapped0 0x12E).wellFormed = false := by decide
theorem test_illformed_unmapped8 : (Instr.unmapped8 0x127).wellFormed = false ∧ (Instr.unmapped8 0x12E).wellFormed = false := by decide
theorem test_illformed_unmappedE : (Instr.unmappedE 0x19E).wellFormed = false ∧ (Instr.unmappedE 0x1A1).wellFormed = false := by decide
theorem test_illformed_unmappedF : (Instr.unmappedF 0x165).wellFormed = false ∧ (Instr.unmappedF 0x107).wellFormed = false := by decide
theorem test_wellformed : (Instr.jpV0 3 0x3FF).wellFormed = true ∧ (Instr.unmapped0 0x123).wellFormed = true ∧
    (Instr.unmapped8 0x00F).wellFormed = true ∧ (Instr.unmappedE 0x000).wellFormed = true ∧
    (Instr.unmappedF 0x0FF).wellFormed = true := by decide

/-! ## Decoding: words written out from the patterns of R65, and the unmapped slots of R63 -/

theorem test_decode_family_0 : decodeWord 0x00E0 = .cls ∧ decodeWord 0x00EE = .ret ∧ decodeWord 0x0123 = .unmapped0 0x123 := by decide
theorem test_decode_jumps : decodeWord 0x1234 = .jp 0x234 ∧ decodeWord 0x2ABC = .call 0xABC ∧ decodeWord 0xB3FE = .jpV0 3 0x3FE := by decide
theorem test_decode_skips : decodeWord 0x3A42 = .seImm 10 0x42 ∧ decodeWord 0x4B81 = .sneImm 11 0x81 ∧
    decodeWord 0x5340 = .seReg 3 4 ∧ decodeWord 0x9C50 = .sneReg 12 5 := by decide
theorem test_decode_immediates : decodeWord 0x6A7B = .ldImm 10 0x7B ∧ decodeWord 0x71FF = .addImm 1 0xFF ∧
    decodeWord 0xA300 = .ldI 0x300 ∧ decodeWord 0xC10F = .rnd 1 0x0F ∧ decodeWord 0xDE12 = .drw 14 1 2 := by decide
theorem test_decode_family_8 : decodeWord 0x8120 = .ldReg 1 2 ∧ decodeWord 0x8121 = .orReg 1 2 ∧ decodeWord 0x8122 = .andReg 1 2 ∧
    decodeWord 0x8123 = .xorReg 1 2 ∧ decodeWord 0x8124 = .addReg 1 2 ∧ decodeWord 0x8125 = .sub 1 2 ∧ decodeWord 0x8126 = .shr 1 2 ∧
    decodeWord 0x8127 = .subn 1 2 ∧ decodeWord 0x812E = .shl 1 2 ∧ decodeWord 0x8128 = .unmapped8 0x128 := by decide
theorem test_decode_family_E : decodeWord 0xE19E = .skp 1 ∧ decodeWord 0xE1A1 = .sknp 1 ∧ decodeWord 0xE1A0 = .unmappedE 0x1A0 := by decide
theorem test_decode_family_F : decodeWord 0xF107 = .ldFromDT 1 ∧ decodeWord 0xF20A = .ldK 2 ∧ decodeWord 0xF315 = .ldDT 3 ∧
    decodeWord 0xF418 = .ldST 4 ∧ decodeWord 0xF51E = .addI 5 ∧ decodeWord 0xF629 = .ldF 6 ∧ decodeWord 0xF733 = .ldB 7 ∧
    decodeWord 0xF855 = .stRegs 8 ∧ decodeWord 0xF965 = .ldRegs 9 ∧ decodeWord 0xF175 = .unmappedF 0x175 := by decide
/-- The non-canonical words of R66. -/
theorem test_decode_aliases : decodeWord 0x5121 = .seReg 1 2 ∧ decodeWord 0x0120 = .cls ∧ decodeWord 0xE12E = .skp 1 ∧
    decodeWord 0x0000 = .cls := by decide
theorem test_decode_bytes : decode [0x81, 0x24, 0x00] = .ok (.addReg 1 2, [0x00]) ∧ decode [0x81] = .error .tooShort ∧
    decodeTableWord 16 0x8124 = some (.addReg 1 2) ∧ decodeTableWord 24 0x8124 = none := ⟨rfl, rfl, by decide, by decide⟩
/-- R69's canonical spellings, and R68's short form of the shifts. -/
theorem test_assembly : assemble [.instr .cls, .instr (.sknp 3), .db 0xC0] = [0x00, 0xE0, 0xE3, 0xA1, 0xC0] ∧
    instrText (.shr 1 0) = "SHR V1" ∧ instrText (.drw 0 1 5) = "DRW V0, V1, 5" := by decide +kernel
/-- The literals as the listings of P1 and P2 write them. -/
theorem test_assembly_literals : instrText (.ldImm 1 0x05) = "LD V1, 0x05" ∧ instrText (.jp 0x20C) = "JP 0x20C" ∧
    instrText (.ldImm 10 0x7B) = "LD VA, 0x7B" ∧ addressText 0x00A = "0x00A" := by decide +kernel

/-! ## One cycle of each instruction -/

theorem test_cls_V5_1 : after 0x00E0 { State.reset with FB := (State.reset.FB.set 5 true).set 2047 true }
    (fun t => !cellOn t.FB 5 && !cellOn t.FB 2047 && t.pc == 0x202) = true := by decide +kernel
theorem test_ret_V2_7 : after 0x0F1E { State.reset with SP := 1, S := State.reset.S.set 0 0x206 }
    (fun t => t.SP == 0 && t.pc == 0x206 && t.S[0] == 0x206) = true := by decide +kernel
theorem test_ret_V2_6 : after 0x00EE State.reset
    (fun t => t.err == .stackUnderflow && faultValue t == some 0 && t.pc == 0x200) = true := by decide +kernel
theorem test_jp_V2_1 : after 0x1234 State.reset (fun t => t.pc == 0x234) = true := by decide +kernel
theorem test_call_V2_3 : after 0x2210 { State.reset with pc := 0x204 }
    (fun t => t.S[0] == 0x206 && t.SP == 1 && t.pc == 0x210) = true := by decide +kernel
theorem test_call_V2_4 : after 0x2500 { State.reset with pc := 0x400, SP := 16 }
    (fun t => t.err == .stackOverflow && faultValue t == some 16 && t.pc == 0x400 && t.SP == 16) = true := by decide +kernel
theorem test_seImm_L1_3a : after 0x3142 (State.reset.writeV 1 0x42) (fun t => t.pc == 0x204) = true := by decide +kernel
theorem test_seImm_L1_3b : after 0x3142 (State.reset.writeV 1 0x41) (fun t => t.pc == 0x202) = true := by decide +kernel
theorem test_sneImm_L1_3c : after 0x4142 (State.reset.writeV 1 0x41) (fun t => t.pc == 0x204) = true := by decide +kernel
theorem test_sneImm_V2_12 : after 0x4205 (State.reset.writeV 2 0x05) (fun t => t.pc == 0x202) = true := by decide +kernel
theorem test_seReg_V2_13 : after 0x5341 ((State.reset.writeV 3 0x7F).writeV 4 0x7F) (fun t => t.pc == 0x204) = true := by decide +kernel
theorem test_sneReg_L1_3e : after 0x9120 ((State.reset.writeV 1 0x10).writeV 2 0x10) (fun t => t.pc == 0x202) = true := by decide +kernel
theorem test_ldImm_V3_1 : after 0x6A7B State.reset (fun t => t.readV 10 == 0x7B && t.pc == 0x202) = true := by decide +kernel
theorem test_ldImm_V1_8 : after 0x6001 { State.reset with pc := 0xFFE } (fun t => t.readV 0 == 1 && t.pc == 0x1000) = true := by
  decide +kernel
theorem test_addImm_V3_2 : after 0x7102 ((State.reset.writeV 1 0xFF).writeV 15 0x07)
    (fun t => t.readV 1 == 0x01 && t.readV 15 == 0x07) = true := by decide +kernel
theorem test_ldReg_V3_4 : after 0x8120 (State.reset.writeV 2 0x33) (fun t => t.readV 1 == 0x33 && t.readV 2 == 0x33) = true := by
  decide +kernel
theorem test_or_V3_5 : after 0x8121 (((State.reset.writeV 1 0xF0).writeV 2 0x0F).writeV 15 0x05)
    (fun t => t.readV 1 == 0xFF && t.readV 15 == 0x05) = true := by decide +kernel
theorem test_or_V3_6 : after 0x8121 ((((under fun c => { c with logicResetsVF := true }).writeV 1 0xF0).writeV 2 0x0F).writeV 15 0x05)
    (fun t => t.readV 1 == 0xFF && t.readV 15 == 0x00) = true := by decide +kernel
theorem test_and_V3_7 : after 0x8122 ((State.reset.writeV 1 0xF0).writeV 2 0x3C) (fun t => t.readV 1 == 0x30) = true := by decide +kernel
theorem test_xor_V3_8 : after 0x8113 (State.reset.writeV 1 0x5A) (fun t => t.readV 1 == 0x00) = true := by decide +kernel
theorem test_xor_R100 : after 0x8123 ((State.reset.writeV 1 0xFF).writeV 2 0x0F) (fun t => t.readV 1 == 0xF0) = true := by decide +kernel
theorem test_add_L1_1 : after 0x8124 ((State.reset.writeV 1 0xFF).writeV 2 0x02)
    (fun t => t.readV 1 == 0x01 && t.readV 15 == 1) = true := by decide +kernel
theorem test_add_V3_11 : after 0x8F14 ((State.reset.writeV 15 0xF0).writeV 1 0x20) (fun t => t.readV 15 == 1) = true := by decide +kernel
theorem test_sub_L1_2 : after 0x8125 ((State.reset.writeV 1 0x05).writeV 2 0x05)
    (fun t => t.readV 1 == 0x00 && t.readV 15 == 0) = true := by decide +kernel
theorem test_sub_V3_12 : after 0x8125 ((State.reset.writeV 2 0x01).writeV 15 0x07)
    (fun t => t.readV 1 == 0xFF && t.readV 15 == 0) = true := by decide +kernel
theorem test_shr_V3_15 : after 0x8126 (((under fun c => { c with shiftSource := .vy }).writeV 1 0x04).writeV 2 0x05)
    (fun t => t.readV 1 == 0x02 && t.readV 15 == 1) = true := by decide +kernel
theorem test_shr_V3_16 : after 0x8FF6 (State.reset.writeV 15 0x02) (fun t => t.readV 15 == 0) = true := by decide +kernel
theorem test_subn_V3_17 : after 0x8127 ((State.reset.writeV 1 0x03).writeV 2 0x05)
    (fun t => t.readV 1 == 0x02 && t.readV 15 == 1) = true := by decide +kernel
theorem test_subn_V3_18 : after 0x8127 ((State.reset.writeV 1 0x05).writeV 2 0x05) (fun t => t.readV 1 == 0 && t.readV 15 == 0) = true ∧
    after 0x8127 (((under fun c => { c with subnFlag := .ge }).writeV 1 0x05).writeV 2 0x05) (fun t => t.readV 15 == 1) = true := by
  decide +kernel
theorem test_shl_V3_20 : after 0x810E (State.reset.writeV 1 0x81) (fun t => t.readV 1 == 0x02 && t.readV 15 == 1) = true := by
  decide +kernel
theorem test_shl_V3_21 : after 0x810E (State.reset.writeV 1 0x40) (fun t => t.readV 1 == 0x80 && t.readV 15 == 0) = true := by
  decide +kernel
theorem test_ldI_V4_1 : after 0xA300 State.reset (fun t => t.I == 0x300 && t.pc == 0x202) = true := by decide +kernel
theorem test_jpV0_V2_9 : after 0xBFFF (State.reset.writeV 0 0xFF) (fun t => t.pc == 0x10FE) = true := by decide +kernel
theorem test_jpV0_V2_10 : after 0xB300 (((under fun c => { c with jumpOffsetReg := .vx }).writeV 0 0x10).writeV 3 0x20)
    (fun t => t.pc == 0x320) = true := by decide +kernel
/-- V3.23, whatever byte is drawn. -/
theorem test_rnd_V3_23 : ∃ t, exec (.rnd 1 0x00) State.reset = .next t ∧ t.readV 1 = 0 ∧ t.draws = 1 :=
  ⟨_, rfl, by simp, rfl⟩
theorem test_drw_V5_3 : after 0xD011 ((({ State.reset with I := 0x300 } : State).writeV 0 0x3C).writeByte 0x300 0xFF)
    (fun t => cellOn t.FB 60 && cellOn t.FB 63 && cellOn t.FB 64 && cellOn t.FB 67 && !cellOn t.FB 59 && !cellOn t.FB 68 &&
      t.readV 15 == 0) = true := by decide +kernel
theorem test_drw_V5_11 : after 0xD011 (({ State.reset with I := 0x300, FB := State.reset.FB.set 3 true } : State).writeByte 0x300 0xF0)
    (fun t => cellOn t.FB 0 && cellOn t.FB 2 && !cellOn t.FB 3 && !cellOn t.FB 4 && t.readV 15 == 1) = true := by decide +kernel
theorem test_skp_V6_5 : after 0xE10E (({ State.reset with pc := 0x300, K := State.reset.K.set 7 true } : State).writeV 1 7)
    (fun t => t.pc == 0x304) = true := by decide +kernel
theorem test_skp_V6_4 : after 0xE19E (({ State.reset with pc := 0x300 } : State).writeV 1 0x10)
    (fun t => t.err == .keyOutOfRange && faultValue t == some 0x10 && t.pc == 0x300) = true := by decide +kernel
theorem test_sknp_V6_3 : after 0xE1A1 (({ State.reset with pc := 0x300 } : State).writeV 1 7) (fun t => t.pc == 0x304) = true := by
  decide +kernel
theorem test_ldFromDT_V6_8 : after 0xF107 { State.reset with DT := 2 } (fun t => t.readV 1 == 2 && t.DT == 1) = true := by decide +kernel
theorem test_ldK_V6_6 : after 0xF30A { State.reset with K := (State.reset.K.set 5 true).set 9 true }
    (fun t => t.readV 3 == 5 && t.pc == 0x202) = true := by decide +kernel
theorem test_ldK_V6_7 : after 0xF30A { State.reset with DT := 2 } (fun t => t.pc == 0x200 && t.DT == 1) = true := by decide +kernel
theorem test_ldDT_V6_9 : after 0xF015 (State.reset.writeV 0 3) (fun t => t.DT == 2 && t.ST == 0) = true := by decide +kernel
theorem test_ldDT_V6_10 : after 0xF015 { State.reset with DT := 9 } (fun t => t.DT == 0) = true := by decide +kernel
theorem test_ldST_V6_12 : after 0xF418 (State.reset.writeV 4 0x3C) (fun t => t.ST == 0x3B && t.DT == 0 && soundActive t) = true := by
  decide +kernel
theorem test_addI_V4_2 : after 0xF31E ((({ State.reset with I := 0xFFE } : State).writeV 3 5).writeV 15 9)
    (fun t => t.I == 0x1003 && t.readV 15 == 9) = true := by decide +kernel
theorem test_addI_V4_3 : after 0xF01E (({ State.reset with I := 0xFFFF } : State).writeV 0 1) (fun t => t.I == 0) = true := by
  decide +kernel
theorem test_ldF_V4_4 : after 0xF229 (State.reset.writeV 2 0x0A) (fun t => t.I == 0x082) = true := by decide +kernel
theorem test_ldF_V4_5 : after 0xF229 (State.reset.writeV 2 0x10) (fun t => t.I == 0x0A0) = true := by decide +kernel
theorem test_ldB_V4_7 : after 0xF033 (({ State.reset with I := 0x300 } : State).writeV 0 0xFF)
    (fun t => t.loadBytes 0x300 3 == [2, 5, 5] && t.I == 0x300) = true := by decide +kernel
theorem test_ldB_V4_9 : after 0xF033 (({ State.reset with I := 0xFFE } : State).writeV 0 1)
    (fun t => t.err == .addressOutOfRange && faultValue t == some 0x1000 && t.readByte 0xFFE == 0) = true := by decide +kernel
theorem test_stRegs_V4_11 : after 0xF155 ((({ (under fun c => { c with loadStoreIncrementsI := true }) with I := 0x400 } : State).writeV 0
    0x11).writeV 1 0x22) (fun t => t.loadBytes 0x400 3 == [0x11, 0x22, 0] && t.I == 0x402) = true := by decide +kernel
theorem test_stRegs_V4_12 : after 0xFF55 (({ State.reset with I := 0xFF8 } : State).writeV 0 7)
    (fun t => t.err == .addressOutOfRange && faultValue t == some 0x1000 && t.readByte 0xFF8 == 0) = true := by decide +kernel
theorem test_ldRegs_V4_15 : after 0xF465 { State.reset with I := 0x050 }
    (fun t => t.V.toList.take 6 == [0xF0, 0x90, 0x90, 0x90, 0xF0, 0] && t.I == 0x050) = true := by decide +kernel
theorem test_ldRegs_V4_16 : after 0xF065 { State.reset with I := 0x1000 }
    (fun t => t.err == .addressOutOfRange && faultValue t == some 0x1000) = true := by decide +kernel
theorem test_unmapped8_V1_3 : after 0x8008 { State.reset with pc := 0x300, DT := 3 } (fun t => t.pc == 0x302 && t.DT == 2) = true := by
  decide +kernel
theorem test_unmapped8_V1_4 : after 0x8008 { (under fun c => { c with unmappedPolicy := .fault }) with pc := 0x300, DT := 3 }
    (fun t => t.err == .undefinedInstruction && t.fault == some ⟨some 0x300, some 0x8008, none⟩ && t.pc == 0x300 && t.DT == 3) = true := by
  decide +kernel
theorem test_unmapped0_V1_7 : after 0x0123 State.reset (fun t => t.pc == 0x202 && t.err == .ok) = true := by decide +kernel
theorem test_unmappedE_V1_6 : after 0xE000 State.reset (fun t => t.pc == 0x202 && t.err == .ok) = true := by decide +kernel
theorem test_unmappedF_V1_5 : after 0xF0FF State.reset (fun t => t.pc == 0x202 && t.err == .ok) = true := by decide +kernel

/-! ## The fetch, the loader and the host -/

/-- A loaded machine about to run a cycle at `pc`. -/
def loadedAt (pc : Word) : State := { State.reset with pc := pc, phase := .loaded }

theorem test_fetch_V1_9 : onNext (step (loadedAt 0x1000)) (fun t => t.err == .addressOutOfRange &&
    t.fault == some ⟨some 0x1000, none, some 0x1000⟩ && t.pc == 0x1000) = true := by decide +kernel
theorem test_fetch_V1_10 : onNext (step (loadedAt 0xFFF)) (fun t => t.err == .addressOutOfRange &&
    t.fault == some ⟨some 0xFFF, none, some 0x1000⟩) = true := by decide +kernel
theorem test_fetch_V1_11 : after 0x6107 { State.reset with pc := 0x201 } (fun t => t.readV 1 == 7 && t.pc == 0x203) = true := by
  decide +kernel
theorem test_halted_V1_12 : step { loadedAt 0x200 with err := .addressOutOfRange } = .fault (.halted .addressOutOfRange) := rfl
theorem test_load_L1_5 : onNext (load (.image (List.replicate 3584 0xAB)) State.reset)
    (fun t => t.err == .romOverflow && faultValue t == some 3584 && t.phase == .constructed && t.readByte 0x200 == 0) = true := by
  decide +kernel
/-- P3's sprite program as a ROM of odd length: its last word and byte land where the listing puts them. -/
theorem test_load_odd : onNext (step { State.reset with hostOps := [.load (romOf [.instr (.drw 0 1 1), .db 0xC0])] })
    (fun t => t.loadBytes 0x200 4 == [0xD0, 0x11, 0xC0, 0x00] && t.phase == .loaded && t.err == .ok) = true := by decide +kernel
theorem test_load_L1_9 : load .notFound State.reset = .next { State.reset with err := .fileNotFound } := rfl
theorem test_cycle_before_load : step State.reset = .refused .cycleBeforeLoad := rfl

/-! ## The hypotheses of the statements can be met, at the boundaries of each clause -/

/-- A loaded machine whose next cycle runs the word `w` at `pc`. -/
def at200 (w : Nat) (s : State) : State := s.withFetchWord 16 w

theorem onNext_true {o : Host.Outcome State Fault Refusal} {p : State → Bool} (h : onNext o p = true) :
    ∃ t, o = .next t ∧ p t = true := by
  cases o with
  | next t => exact ⟨t, rfl, h⟩
  | fault => cases h
  | refused => cases h

/-- `DecodeAfterEncode`. -/
theorem witness_wellFormed : (Instr.jpV0 15 0xFFF).wellFormed = true ∧ (Instr.drw 15 0 15).wellFormed = true ∧
    (Instr.unmapped0 0xFFF).wellFormed = true ∧ (Instr.unmappedF 0x000).wellFormed = true := by decide
/-- `OpcodeMapDecides`: a word of a row, and words of no row at the ends of the unmapped ranges. -/
theorem witness_rows : (∃ r ∈ opcodeMap, (0x8124 : Word) &&& r.mask = r.pattern) ∧
    (∀ r ∈ opcodeMap, (0x8008 : Word) &&& r.mask ≠ r.pattern) ∧ (∀ r ∈ opcodeMap, (0xFFFF : Word) &&& r.mask ≠ r.pattern) ∧
    (∀ r ∈ opcodeMap, (0x0001 : Word) &&& r.mask ≠ r.pattern) := by decide
/-- `EncodeRestoresFullWords`. -/
theorem witness_full_word : (∀ k ∈ [1, 2, 7, 19, 24, 25], (decodeWord 0x8FFE).rowNumber ≠ some k) ∧
    (∀ k ∈ [1, 2, 7, 19, 24, 25], (decodeWord 0x0FFF).rowNumber ≠ some k) := by decide
/-- The `Encodes` clauses, each with a word that is not its canonical one where the row has another. -/
theorem witness_masks : (0x0F1E : Word) &&& 0xF00F = 0x000E ∧ (0x0000 : Word) &&& 0xF00F = 0x0000 ∧ (0x1FFF : Word) &&& 0xF000 = 0x1000 ∧
    (0x2FFF : Word) &&& 0xF000 = 0x2000 ∧ (0x3FFF : Word) &&& 0xF000 = 0x3000 ∧ (0x4FFF : Word) &&& 0xF000 = 0x4000 ∧
    (0x5FFF : Word) &&& 0xF000 = 0x5000 ∧ (0x6FFF : Word) &&& 0xF000 = 0x6000 ∧ (0x7FFF : Word) &&& 0xF000 = 0x7000 ∧
    (0x8FF0 : Word) &&& 0xF00F = 0x8000 ∧ (0x8FF1 : Word) &&& 0xF00F = 0x8001 ∧ (0x8FF2 : Word) &&& 0xF00F = 0x8002 ∧
    (0x8FF3 : Word) &&& 0xF00F = 0x8003 ∧ (0x8FF4 : Word) &&& 0xF00F = 0x8004 ∧ (0x8FF5 : Word) &&& 0xF00F = 0x8005 ∧
    (0x8FF6 : Word) &&& 0xF00F = 0x8006 ∧ (0x8FF7 : Word) &&& 0xF00F = 0x8007 ∧ (0x8FFE : Word) &&& 0xF00F = 0x800E ∧
    (0x9FFF : Word) &&& 0xF000 = 0x9000 ∧ (0xAFFF : Word) &&& 0xF000 = 0xA000 ∧ (0xBFFF : Word) &&& 0xF000 = 0xB000 ∧
    (0xCFFF : Word) &&& 0xF000 = 0xC000 ∧ (0xDFFF : Word) &&& 0xF000 = 0xD000 ∧ (0xEFFE : Word) &&& 0xF00F = 0xE00E ∧
    (0xEFF1 : Word) &&& 0xF00F = 0xE001 ∧ (0xFF07 : Word) &&& 0xF0FF = 0xF007 ∧ (0xFF0A : Word) &&& 0xF0FF = 0xF00A ∧
    (0xFF15 : Word) &&& 0xF0FF = 0xF015 ∧ (0xFF18 : Word) &&& 0xF0FF = 0xF018 ∧ (0xFF1E : Word) &&& 0xF0FF = 0xF01E ∧
    (0xFF29 : Word) &&& 0xF0FF = 0xF029 ∧ (0xFF33 : Word) &&& 0xF0FF = 0xF033 ∧ (0xFF55 : Word) &&& 0xF0FF = 0xF055 ∧
    (0xFF65 : Word) &&& 0xF0FF = 0xF065 := by decide

/-- `StepRunsDecodedInstruction`, at the highest address that holds a whole instruction: a handler that completes, and one that
raises. -/
theorem witness_step : (at200 0x6A7B (loadedAt 0xFFE)).Running ∧ (at200 0x6A7B (loadedAt 0xFFE)).CycleNext ∧
    (at200 0x6A7B (loadedAt 0xFFE)).pc.toNat + 1 < memSize ∧
    decode [(at200 0x6A7B (loadedAt 0xFFE)).readByte 0xFFE, (at200 0x6A7B (loadedAt 0xFFE)).readByte 0xFFF] =
      .ok (.ldImm 10 0x7B, []) ∧
    (∃ t, exec (.ldImm 10 0x7B) { at200 0x6A7B (loadedAt 0xFFE) with pc := 0x1000 } = .next t ∧ t.err = .ok) ∧
    decode [(at200 0x00EE State.reset).readByte 0x200, (at200 0x00EE State.reset).readByte 0x201] = .ok (.ret, []) ∧
    (∃ t, exec .ret { at200 0x00EE State.reset with pc := 0x202 } = .next t ∧ t.err ≠ .ok) :=
  ⟨⟨rfl, rfl⟩, rfl, by decide, rfl, ⟨_, rfl, rfl⟩, rfl, ⟨_, rfl, by decide⟩⟩
/-- `FetchReadsTwoBytesOrRaises`. -/
theorem witness_fetch : (loadedAt 0xFFE).pc.toNat + 1 < 0x1000 ∧ (loadedAt 0xFFF).Running ∧ (loadedAt 0xFFF).CycleNext ∧ ¬ (loadedAt 0xFFF).pc.toNat + 1 < 0x1000 ∧
    ¬ (loadedAt 0x1000).pc.toNat + 1 < 0x1000 ∧ ¬ (loadedAt 0xFFFF).pc.toNat + 1 < 0x1000 := ⟨by decide, ⟨rfl, rfl⟩, rfl, by decide⟩
/-- `StepAnswersExactlyWhenAdmitted`: an answer in each of its cases. -/
theorem witness_admitted : onNext (step (loadedAt 0x200)) (fun _ => true) = true ∧
    onNext (step { loadedAt 0x200 with hostOps := [.cycle] }) (fun _ => true) = true ∧
    onNext (step { State.reset with hostOps := [.load .notFound] }) (fun _ => true) = true ∧
    onNext (step { State.reset with err := .romOverflow, hostOps := [.setKey 15 true] }) (fun t => t.K[15]) = true := by decide +kernel
/-- `StopsAreNamed`: each of the three clauses. -/
theorem witness_stops : ({ State.reset with err := .fileNotFound } : State).err ≠ .ok ∧
    (State.reset.err = .ok ∧ State.reset.phase = .constructed) ∧ ((loadedAt 0x200).err = .ok ∧ (loadedAt 0x200).phase = .loaded) := by
  decide
/-- `RaisingCycleUndoesItself`, and the raising clause of `TimerStepEveryCycle`: a raise in the fetch and one in a handler. -/
theorem witness_raise : (∃ t, step (loadedAt 0xFFF) = .next t ∧ t.err ≠ .ok) ∧
    (at200 0x00EE State.reset).Running ∧ (at200 0x00EE State.reset).CycleNext ∧
    (∃ t, step (at200 0x00EE State.reset) = .next t ∧ t.err ≠ .ok) :=
  ⟨⟨_, rfl, by decide⟩, ⟨rfl, rfl⟩, rfl, ⟨_, rfl, by decide⟩⟩
/-- `ErrorIsSticky`: what a halted machine still does is take key changes. -/
theorem witness_sticky : ∃ t, ({ State.reset with err := .fileNotFound, hostOps := [.setKey 3 true] } : State).err ≠ .ok ∧
    step { State.reset with err := .fileNotFound, hostOps := [.setKey 3 true] } = .next t := ⟨_, by decide, rfl⟩
/-- `ErrorHasItsCause`: a cycle without an error, and one for each error a cycle raises. -/
theorem witness_causes : after 0x6000 State.reset (fun t => t.err == .ok) = true ∧
    onNext (step (loadedAt 0xFFF)) (fun t => t.err == .addressOutOfRange) = true ∧
    after 0xF033 { State.reset with I := 0xFFE } (fun t => t.err == .addressOutOfRange) = true ∧
    after 0xF055 { State.reset with I := 0x1000 } (fun t => t.err == .addressOutOfRange) = true ∧
    after 0xFF65 { State.reset with I := 0xFF1 } (fun t => t.err == .addressOutOfRange) = true ∧
    after 0xD011 { State.reset with I := 0xFFFF } (fun t => t.err == .addressOutOfRange && faultValue t == some 0xFFFF) = true ∧
    after 0x2200 { State.reset with SP := 16 } (fun t => t.err == .stackOverflow) = true ∧
    after 0x00EE State.reset (fun t => t.err == .stackUnderflow) = true ∧
    after 0xE0A1 (State.reset.writeV 0 0x10) (fun t => t.err == .keyOutOfRange) = true ∧
    after 0xD011 (((({ State.reset with I := 0x300 } : State).writeByte 0x300 0xC0).writeV 0 0x3F).writeV 1 0x1F)
      (fun t => t.err == .displayOutOfRange && faultValue t == some 2048) = true ∧
    after 0xFFFF (under fun c => { c with unmappedPolicy := .fault }) (fun t => t.err == .undefinedInstruction) = true := by
  decide +kernel
/-- `TimerStepEveryCycle`: each of the four clauses, at the smallest and the largest values. -/
theorem witness_timer : after 0xF015 (State.reset.writeV 0 0xFF) (fun t => t.err == .ok && t.DT == 0xFE) = true ∧
    after 0xF018 (State.reset.writeV 0 0) (fun t => t.err == .ok && t.ST == 0) = true ∧
    after 0x6000 { State.reset with DT := 0, ST := 0xFF } (fun t => t.err == .ok && t.DT == 0 && t.ST == 0xFE) = true ∧
    (at200 0xF015 State.reset).wordAt 0x200 = some 0xF015 ∧ decodeWord 0xF015 = .ldDT 0 ∧ decodeWord 0xF018 = .ldST 0 ∧
    (∀ x, decodeWord 0x6000 ≠ .ldDT x) ∧ (∀ x, decodeWord 0x6000 ≠ .ldST x) := by decide +kernel
/-- `DelayTimerCountsCycles`: one cycle in which no `LD DT, Vx` runs. -/
theorem witness_delay : (at200 0x1200 { State.reset with DT := 5 }).Running ∧ (at200 0x1200 { State.reset with DT := 5 }).CycleNext ∧
    (∃ t, Host.Core.run Sys2Proof.core 1 (at200 0x1200 { State.reset with DT := 5 }) = .next t ∧ t.err = .ok) ∧
    (∀ (k : Nat) (u : State) (w : Word) (x : Reg), k < 1 →
      Host.Core.run Sys2Proof.core k (at200 0x1200 { State.reset with DT := 5 }) = .next u →
      u.wordAt u.pc = some w → decodeWord w ≠ .ldDT x) := by
  refine ⟨⟨rfl, rfl⟩, rfl, ⟨_, rfl, rfl⟩, fun k u w x hk hu hw => ?_⟩
  obtain rfl : k = 0 := by omega
  obtain rfl := Host.Outcome.next.inj hu
  obtain rfl : (0x1200 : Word) = w := Option.some.inj hw
  intro h
  exact Instr.noConfusion h
/-- `SelfJumpIsIdle` and `KeypadWaitHoldsTheProgram`. -/
theorem witness_idle : (at200 0x1200 State.reset).Running ∧ (at200 0x1200 State.reset).CycleNext ∧
    (at200 0x1200 State.reset).wordAt (at200 0x1200 State.reset).pc = some 0x1200 ∧ decodeWord 0x1200 = .jp 0x200 ∧
    (0x200 : BitVec 12).toNat = (at200 0x1200 State.reset).pc.toNat ∧
    (at200 0xF30A State.reset).wordAt (at200 0xF30A State.reset).pc = some 0xF30A ∧ decodeWord 0xF30A = .ldK 3 ∧
    (∀ k : Fin 16, (at200 0xF30A State.reset).K[k.val] = false) := ⟨⟨rfl, rfl⟩, rfl, by decide +kernel⟩
/-- `StepKeepsInvariant`: a state before the load and one after it, each with a step. -/
theorem witness_invariant : (State.reset.Inv ∧ (at200 0x6A7B State.reset).Inv) ∧
    (∃ t, step (at200 0x6A7B State.reset) = .next t) ∧
    (({ State.reset with hostOps := [.load (.image [0x12, 0x00])] } : State).Inv) ∧
    ∃ t, step { State.reset with hostOps := [.load (.image [0x12, 0x00])] } = .next t :=
  ⟨⟨⟨rfl, fun _ => rfl, fun _ => rfl, fun _ => .inl rfl, fun h => (by cases h), fun h => (by cases h)⟩,
    ⟨rfl, fun _ => rfl, fun h => (by cases h), fun h => (by cases h), fun _ => ⟨by decide, by decide⟩, fun _ h => absurd rfl h⟩⟩,
   ⟨_, rfl⟩,
   ⟨rfl, fun _ => rfl, fun _ => rfl, fun _ => .inl rfl, fun h => (by cases h), fun h => (by cases h)⟩,
   ⟨_, rfl⟩⟩
/-- `EveryInstructionFrame`, `StackIsPrivateToCallAndRet` and `SoundTimerIsNotRead`; the storing, drawing and pushing
instructions complete on their last operands. -/
theorem witness_exec : (∃ t, exec (.ldB 0) { State.reset with I := 0xFFD } = .next t ∧ t.err = .ok) ∧
    (∃ t, exec (.call 0x200) { State.reset with SP := 15 } = .next t ∧ t.err = .ok) ∧
    (∃ t, exec (.drw 0 0 1) { State.reset with I := 0xFFF } = .next t ∧ t.err = .ok) ∧
    (∃ t, exec (.stRegs 15) { State.reset with I := 0xFF0 } = .next t ∧ t.err = .ok) ∧
    (∃ t, exec (.ldST 0) State.reset = .next t) ∧ (∃ t, exec (.skp 0) (State.reset.writeV 0 0x10) = .next t) ∧
    ¬ Instr.writesStack (.stRegs 15) ∧ (∃ t, exec (.stRegs 15) { State.reset with I := 0xFF0 } = .next t) :=
  ⟨⟨_, rfl, rfl⟩, ⟨_, rfl, rfl⟩, ⟨_, rfl, rfl⟩, ⟨_, rfl, rfl⟩, ⟨_, rfl⟩, ⟨_, rfl⟩, id, ⟨_, rfl⟩⟩
/-- `HostOwnedState` and `HostOperationsComeFirst`: each kind of operation. -/
theorem witness_host : (∃ t, step { State.reset with hostOps := [.setKey 15 true] } = .next t) ∧
    (∃ t, step { State.reset with hostOps := [.load (.image [])] } = .next t) ∧
    (∃ t, step { loadedAt 0x200 with hostOps := [.cycle] } = .next t) ∧ (loadedAt 0x200).hostOps = [] :=
  ⟨⟨_, rfl⟩, ⟨_, rfl⟩, ⟨_, rfl⟩, rfl⟩
/-- `RetPopsOrUnderflows` and `CallPushesOrOverflows`: an empty, a full and a nearly full stack. -/
theorem witness_stack : State.reset.SP.val = 0 ∧ ({ State.reset with SP := 16 } : State).SP.val = 16 ∧
    ({ State.reset with SP := 15 } : State).SP.val < 16 ∧ ({ State.reset with SP := 1 } : State).SP.val ≠ 0 := by decide
/-- L1.7, the state of `CallThenRetResumes`. -/
def callThenRet : State := (at200 0x2300 State.reset).storeBytes 0x300 [0x00, 0xEE]
/-- `CallThenRetResumes`. -/
theorem witness_callThenRet : callThenRet.Running ∧ callThenRet.CycleNext ∧ callThenRet.SP.val < 16 ∧
    callThenRet.wordAt callThenRet.pc = some 0x2300 ∧ decodeWord 0x2300 = .call 0x300 ∧
    callThenRet.wordAt ((0x300 : BitVec 12).zeroExtend 16) = some 0x00EE ∧ decodeWord 0x00EE = .ret :=
  ⟨⟨rfl, rfl⟩, rfl, by decide +kernel⟩
/-- `JumpTargets`, `LogicOperations`, `ReverseSubtractNotBorrow`, `ShiftsReportTheLostBit`, `UnmappedSlots` and
`LoaderLoadsOrFails`: both values of the parameter each of them reads. -/
theorem witness_parameters : State.reset.cfg.jumpOffsetReg = .v0 ∧ (under fun c => { c with jumpOffsetReg := .vx }).cfg.jumpOffsetReg = .vx ∧
    State.reset.cfg.logicResetsVF = false ∧ (under fun c => { c with logicResetsVF := true }).cfg.logicResetsVF = true ∧
    State.reset.cfg.subnFlag = .gt ∧ (under fun c => { c with subnFlag := .ge }).cfg.subnFlag = .ge ∧
    (State.reset.cfg.shiftSource = .vx ∧ (0 : Byte) = State.reset.readV 1) ∧
    ((under fun c => { c with shiftSource := .vy }).cfg.shiftSource = .vy ∧ (0 : Byte) = (under fun c => { c with shiftSource := .vy }).readV 2) ∧
    State.reset.cfg.unmappedPolicy = .noop ∧ (under fun c => { c with unmappedPolicy := .fault }).cfg.unmappedPolicy = .fault ∧
    State.reset.err = .ok ∧ State.reset.phase = .constructed ∧ State.reset.cfg.romMaxBytes = .bytes3583 ∧
    (under fun c => { c with romMaxBytes := .bytes3584 }).cfg.romMaxBytes = .bytes3584 ∧ (0 : Reg) ≠ vf ∧ (14 : Reg) ≠ vf := by
  decide +kernel
/-- `LoaderLoadsOrFails`: images at the limits, one byte over them, and the empty one. -/
theorem witness_images : (List.replicate 3584 (0 : Byte)).length > 3583 ∧ (List.replicate 3583 (0 : Byte)).length ≤ 3583 ∧
    (List.replicate 3585 (0 : Byte)).length > 3584 ∧ (List.replicate 3584 (0 : Byte)).length ≤ 3584 ∧ ([] : List Byte).length ≤ 3583 := by
  simp only [List.length_replicate, List.length_nil]
  decide
/-- `BcdDigitsStored`, `RegistersStored` and `RegistersLoaded`: the last block that fits and the first that does not. -/
theorem witness_blocks : ({ State.reset with I := 0xFFE } : State).I.toNat + 2 ≥ 0x1000 ∧ ({ State.reset with I := 0xFFD } : State).I.toNat + 2 < 0x1000 ∧
    ({ State.reset with I := 0xFF1 } : State).I.toNat + (15 : Reg).val ≥ 0x1000 ∧ ({ State.reset with I := 0xFF0 } : State).I.toNat + (15 : Reg).val < 0x1000 ∧
    ({ State.reset with I := 0x1000 } : State).I.toNat + (0 : Reg).val ≥ 0x1000 ∧ ({ State.reset with I := 0xFFF } : State).I.toNat + (0 : Reg).val < 0x1000 ∧
    ({ State.reset with I := 0xFF0 } : State).memWf = true := by decide +kernel
/-- `StoreThenLoadRestores`. -/
theorem witness_store_load : ∃ t u, ({ State.reset with I := 0xFF0 } : State).memWf = true ∧
    ({ State.reset with I := 0xFF0 } : State).cfg.loadStoreIncrementsI = false ∧ ({ State.reset with I := 0xFF0 } : State).I.toNat + (15 : Reg).val < 0x1000 ∧
    exec (.stRegs 15) { State.reset with I := 0xFF0 } = .next t ∧
    exec (.ldRegs 15) { t with V := Vector.replicate 16 7 } = .next u :=
  ⟨_, _, rfl, rfl, by decide, rfl, rfl⟩
/-- `StoreSeenByFetch`: a store over the instruction after the storing one, at 0x200. -/
theorem witness_store_fetch : ∃ t, ({ State.reset with I := 0x202 } : State).memWf = true ∧
    ({ State.reset with I := 0x202 } : State).I.toNat + (1 : Reg).val < 0x1000 ∧ exec (.stRegs 1) { State.reset with I := 0x202 } = .next t ∧
    (0x202 : Word).toNat = ({ State.reset with I := 0x202 } : State).I.toNat + 0 ∧ 0 + 1 ≤ (1 : Reg).val :=
  ⟨_, rfl, by decide, rfl, by decide, by decide⟩

/-- The state of V5.6 and V5.7: a sprite byte `b` at 0x300, to be drawn at the last cell. -/
def lastCell (b : Byte) : State := ((({ State.reset with I := 0x300 } : State).writeByte 0x300 b).writeV 0 0x3F).writeV 1 0x1F

theorem lastCell_hits {b : Byte} {d : Nat} (h : SpriteHits (lastCell b) 0 1 1 d) :
    ∃ c, c < 8 ∧ ((lastCell b).readByte 0x300).getLsbD (7 - c) = true ∧ d = 2047 + c := by
  obtain ⟨r, c, hr, hc, hb, hd⟩ := h
  have hr0 : r = 0 := by have : ((1 : Fin 16) : Nat) = 1 := rfl; omega
  subst hr0
  refine ⟨c, hc, hb, ?_⟩
  rw [hd, show ((lastCell b).readV 1).toNat % 32 = 31 from rfl, show ((lastCell b).readV 0).toNat % 64 = 63 from rfl]
  omega
/-- `DrawSprite`: a sprite byte outside memory, the first cell index outside the framebuffer, and the last one inside it, with its
cell on and off. -/
theorem witness_draw : ¬ SpriteInMemory { State.reset with I := 0xFFF } 2 ∧ SpriteInMemory { State.reset with I := 0xFFF } 1 ∧
    SpriteInMemory { State.reset with I := 0xFFFF } 0 ∧
    (SpriteInMemory (lastCell 0xC0) 1 ∧ SpriteHits (lastCell 0xC0) 0 1 1 2048 ∧
      ∀ e, SpriteHits (lastCell 0xC0) 0 1 1 e → 2048 ≤ e → 2048 ≤ e) ∧
    (SpriteInMemory (lastCell 0x80) 1 ∧ (∀ d, SpriteHits (lastCell 0x80) 0 1 1 d → d < 2048) ∧
      ∀ d : Fin 2048, SpriteHits (lastCell 0x80) 0 1 1 d.val → (lastCell 0x80).FB[d.val] = false) ∧
    (∃ d : Fin 2048, SpriteHits { lastCell 0x80 with FB := State.reset.FB.set 2047 true } 0 1 1 d.val ∧
      (State.reset.FB.set 2047 true)[d.val] = true) := by
  refine ⟨by unfold SpriteInMemory; decide, by unfold SpriteInMemory; decide, by unfold SpriteInMemory; decide,
    ⟨by unfold SpriteInMemory; decide, ⟨0, 1, by decide, by decide, rfl, rfl⟩, fun _ _ h => h⟩,
    ⟨by unfold SpriteInMemory; decide, fun d h => ?_, fun d _ => by simp [lastCell, State.reset, State.construct, State.writeV, State.writeByte, memSize]⟩,
    ⟨⟨2047, by decide⟩, ⟨0, 0, by decide, by decide, rfl, rfl⟩, by decide +kernel⟩⟩
  obtain ⟨c, hc, hb, rfl⟩ := lastCell_hits h
  have key : ∀ c, c < 8 → ((0x80 : Byte).getLsbD (7 - c) = true) → c = 0 := by decide
  have := key c hc hb
  omega
/-- `DrawTwiceRestores`: the same instruction twice in a row, onto a cell that is off. -/
theorem witness_draw_twice : SpriteInMemory (lastCell 0x80) 1 ∧ (∀ d, SpriteHits (lastCell 0x80) 0 1 1 d → d < 2048) ∧
    ∃ t, exec (.drw 0 1 1) (lastCell 0x80) = .next t ∧ t.FB = t.FB ∧ t.I = (lastCell 0x80).I ∧ SameMemory (lastCell 0x80) t ∧
      (t.readV 0).toNat % 64 = ((lastCell 0x80).readV 0).toNat % 64 ∧ (t.readV 1).toNat % 32 = ((lastCell 0x80).readV 1).toNat % 32 ∧
      (∀ d : Fin 2048, SpriteHits (lastCell 0x80) 0 1 1 d.val → (lastCell 0x80).FB[d.val] = false) ∧
      (∃ d, SpriteHits (lastCell 0x80) 0 1 1 d) :=
  ⟨witness_draw.2.2.2.2.1.1, witness_draw.2.2.2.2.1.2.1, _, rfl, rfl, rfl,
    fun _ => by unfold State.readByte; rfl, by rw [State.readV_writeFlag_ne _ _ (by decide)]; unfold State.readV; rfl,
    by rw [State.readV_writeFlag_ne _ _ (by decide)]; unfold State.readV; rfl, witness_draw.2.2.2.2.1.2.2,
    ⟨2047, 0, 0, by decide, by decide, rfl, rfl⟩⟩
/-- `KeypadSkips` and `KeypadWait`: the last key and the first number that is none, no key, the lowest and the highest key. -/
theorem witness_keypad : ((State.reset.writeV 0 0x10).readV 0).toNat > 15 ∧
    ((State.reset.writeV 0 0x0F).readV 0).toNat = (15 : Fin 16).val ∧ (∀ k : Fin 16, State.reset.K[k.val] = false) ∧
    ((State.reset.K.set 0 true)[0] = true ∧ ∀ j : Fin 16, j < 0 → (State.reset.K.set 0 true)[j.val] = false) ∧
    ((State.reset.K.set 15 true)[15] = true ∧ ∀ j : Fin 16, j < 15 → (State.reset.K.set 15 true)[j.val] = false) := by decide +kernel

end Sys2Proof.Tests
end

section
/-! PROOF. The frame of every instruction: each write that the rules let an instruction make keeps the frame, so a handler's
frame is read off its writes (spec/10_state.md R19 to R29, spec/20_memory.md R48, spec/41_control_flow.md R93). -/

namespace Sys2Proof.Machine

variable {i : Instr} {s t u : State}

/-! ### Memory -/

/-- A state that reads the same bytes is in the same memory frame. -/
theorem memoryFrame_of_readByte (h : Instr.memoryFrame s t i) (hu : ∀ a, u.readByte a = t.readByte a) :
    Instr.memoryFrame s u i := by
  cases i with
  | ldB x => exact fun a ha => (hu a).trans (h a ha)
  | stRegs x => exact fun a ha => (hu a).trans (h a ha)
  | _ => exact fun a => (hu a).trans (h a)

theorem memoryFrame_refl (i : Instr) (s : State) : Instr.memoryFrame s s i := by
  cases i with
  | ldB x => exact fun _ _ => rfl
  | stRegs x => exact fun _ _ => rfl
  | _ => exact fun _ => rfl

/-- Storing a list of bytes leaves every byte outside its block alone. -/
theorem sameMemoryOutside_storeBytes (s : State) (a : Nat) {bs : List Byte} {len : Nat} (h : bs.length = len) :
    SameMemoryOutside a len s (s.storeBytes a bs) :=
  fun _ hb => State.readByte_storeBytes_outside s (h ▸ hb)

/-! ### Cells -/

/-- The cells `DRW` draws are those a set sprite bit hits (R114). -/
theorem mem_drawnCells {x y : Reg} {n : Fin 16} {d : Nat} : d ∈ s.drawnCells x y n ↔ SpriteHits s x y n d := by
  simp only [State.drawnCells, mem_spriteCells, State.loadBytes_length, State.loadBytes_getElem]
  constructor
  · rintro ⟨r, hr, c, hc, hb, rfl⟩
    exact ⟨r, c, hr, hc, hb, rfl⟩
  · rintro ⟨r, c, hr, hc, hb, rfl⟩
    exact ⟨r, hr, c, hc, hb, rfl⟩

/-- Drawing a sprite that lies on the display leaves every cell alone that no set bit hits (R114). -/
theorem drawCells_drawnCells_of_not_hit {x y : Reg} {n : Fin 16}
    (hb : (s.drawnCells x y n).find? (fun c => decide (cellCount ≤ c)) = none) (d : Fin 2048)
    (hd : ¬ SpriteHits s x y n d.val) : (drawCells s.FB (s.drawnCells x y n)).1[d.val] = s.FB[d.val] := by
  have hin : ∀ c ∈ s.drawnCells x y n, c < cellCount := by simpa using hb
  have hcell := cellOn_drawCells s.FB _ hin (spriteCells_nodup _ _ _) d.val
  simpa [cellOn_of_lt, mem_drawnCells.not.2 hd] using hcell

/-! ### The writes an instruction may make -/

namespace ExecFrame

theorem refl : ExecFrame i s s where
  registers _ _ := rfl
  index _ := rfl
  counter _ := rfl
  slots _ _ := rfl
  pointer _ := rfl
  delay _ := rfl
  sound _ := rfl
  memory := memoryFrame_refl i s
  display _ _ := rfl
  draws _ := rfl
  untouched := ⟨rfl, rfl, rfl, rfl, rfl, rfl⟩

theorem writeV {x : Reg} {b : Byte} (h : ExecFrame i s t) (hx : Instr.writesV s.cfg i x) :
    ExecFrame i s (t.writeV x b) :=
  { h with
    registers := fun r hr => by
      have hne : r ≠ x := fun e => hr (e ▸ hx)
      rw [State.readV_writeV_ne _ _ hne, h.registers r hr]
    memory := memoryFrame_of_readByte h.memory fun _ => rfl }

theorem writeFlag {c : Bool} (h : ExecFrame i s t) (hf : Instr.writesV s.cfg i vf) : ExecFrame i s (t.writeFlag c) :=
  h.writeV hf

theorem logicFlag (h : ExecFrame i s t) (hf : t.cfg.logicResetsVF = true → Instr.writesV s.cfg i vf) :
    ExecFrame i s t.logicFlag := by
  unfold State.logicFlag
  split
  next hc => exact h.writeFlag (hf hc)
  next => exact h

theorem writeVs {bs : List Byte} (h : ExecFrame i s t) (hbs : ∀ r : Reg, r.val < bs.length → Instr.writesV s.cfg i r) :
    ExecFrame i s (t.writeVs bs) :=
  { h with
    registers := fun r hr => by
      have hlen : bs.length ≤ r.val := Nat.le_of_not_lt fun hlt => hr (hbs r hlt)
      rw [State.readV_writeVs, List.getElem?_eq_none hlen, Option.getD_none, h.registers r hr]
    memory := memoryFrame_of_readByte h.memory fun _ => rfl }

theorem writeI {w : Word} (h : ExecFrame i s t) (hi : Instr.writesI s.cfg i) : ExecFrame i s (t.writeI w) :=
  { h with
    index := fun hn => absurd hi hn
    memory := memoryFrame_of_readByte h.memory fun _ => rfl }

/-- `I` after a block store or load is written only under `loadStoreIncrementsI` (R111, R112). -/
theorem writeBlockNextI {x : Reg} (h : ExecFrame i s t) (hi : s.cfg.loadStoreIncrementsI = true → Instr.writesI s.cfg i)
    (ht : t.I = s.I) : ExecFrame i s (t.writeI (s.blockNextI x)) := by
  by_cases hc : s.cfg.loadStoreIncrementsI = true
  · exact h.writeI (hi hc)
  · have hsame : t.writeI (s.blockNextI x) = t := by simp [State.writeI, State.blockNextI, hc, ← ht]
    rw [hsame]; exact h

theorem jump {w : Word} (h : ExecFrame i s t) (hp : Instr.writesPC i) : ExecFrame i s (t.jump w) :=
  { h with
    counter := fun hn => absurd hp hn
    memory := memoryFrame_of_readByte h.memory fun _ => rfl }

theorem skipIf {c : Bool} (h : ExecFrame i s t) (hp : Instr.writesPC i) : ExecFrame i s (t.skipIf c) := by
  unfold State.skipIf
  split
  · exact h.jump hp
  · exact h

theorem push {w : Word} {hlt : t.SP.val < 16} (h : ExecFrame i s t) (hs : Instr.writesStack i)
    (hj : Instr.writesSlot s i t.SP.val) : ExecFrame i s (t.push w hlt) :=
  { h with
    slots := fun j hn => by
      have hne : t.SP.val ≠ j := fun e => hn (e ▸ hj)
      rw [State.push_S, Vector.getElem?_set_ne hlt hne, h.slots j hn]
    pointer := fun hn => absurd hs hn
    memory := memoryFrame_of_readByte h.memory fun _ => rfl }

theorem pop {hne : t.SP.val ≠ 0} (h : ExecFrame i s t) (hs : Instr.writesStack i) (hp : Instr.writesPC i) :
    ExecFrame i s (t.pop hne) :=
  { h with
    counter := fun hn => absurd hp hn
    pointer := fun hn => absurd hs hn
    memory := memoryFrame_of_readByte h.memory fun _ => rfl }

theorem writeDT {b : Byte} (h : ExecFrame i s t) (hw : Instr.writesDT i) : ExecFrame i s (t.writeDT b) :=
  { h with
    delay := fun hn => absurd hw hn
    memory := memoryFrame_of_readByte h.memory fun _ => rfl }

theorem writeST {b : Byte} (h : ExecFrame i s t) (hw : Instr.writesST i) : ExecFrame i s (t.writeST b) :=
  { h with
    sound := fun hn => absurd hw hn
    memory := memoryFrame_of_readByte h.memory fun _ => rfl }

theorem drawByte (h : ExecFrame i s t) (hd : Instr.drawsByte i) : ExecFrame i s t.drawByte.2 :=
  { h with
    draws := fun hn => absurd hd hn
    memory := memoryFrame_of_readByte h.memory fun _ => rfl }

theorem storeBytes {a : Nat} {bs : List Byte} (hm : Instr.memoryFrame s (s.storeBytes a bs) i) :
    ExecFrame i s (s.storeBytes a bs) where
  registers r _ := State.readV_storeBytes s a bs r
  index _ := State.storeBytes_I s a bs
  counter _ := State.storeBytes_pc s a bs
  slots j _ := by rw [State.storeBytes_S]
  pointer _ := State.storeBytes_SP s a bs
  delay _ := State.storeBytes_DT s a bs
  sound _ := State.storeBytes_ST s a bs
  memory := hm
  display d _ := by simp only [State.storeBytes_FB]
  draws _ := State.storeBytes_draws s a bs
  untouched := by simp

theorem writeFB {fb : Vector Bool 2048} (h : ExecFrame i s t)
    (hfb : ∀ d : Fin 2048, ¬ Instr.writesCell s i d.val → fb[d.val] = s.FB[d.val]) : ExecFrame i s { t with FB := fb } :=
  { h with
    display := hfb
    memory := memoryFrame_of_readByte h.memory fun _ => rfl }

end ExecFrame

/-! ### What a handler answers -/

/-- The errors a cycle can raise: those of R122 that are not the loader's. -/
abbrev ErrorState.OfCycle (e : ErrorState) : Prop := e ≠ .ok ∧ e ≠ .fileNotFound ∧ e ≠ .romOverflow

/-- The answer of a handler that raised an error of a cycle, or wrote nothing but what the rules let `i` write. -/
def Framed (i : Instr) (s : State) (o : Host.Outcome State Fault Refusal) : Prop :=
  ∃ t, o = .next t ∧ ((∃ e v, e.OfCycle ∧ t = s.raised e v) ∨ ExecFrame i s t)

theorem framed_next (h : ExecFrame i s t) : Framed i s (.next t) := ⟨t, rfl, .inr h⟩

theorem framed_raise {e : ErrorState} {v : Option Nat} (he : e.OfCycle) : Framed i s (raise e v s) :=
  ⟨_, rfl, .inl ⟨e, v, he, rfl⟩⟩

/-- An unmapped slot does nothing or raises (R79). -/
theorem framed_unmappedSlot : Framed i s (unmappedSlot s) := by
  unfold unmappedSlot
  split
  · exact framed_next .refl
  · exact framed_raise (by decide)

/-- Every handler raises an error of a cycle or keeps its instruction's frame. -/
theorem exec_framed (i : Instr) (s : State) : Framed i s (exec i s) := by
  cases i with
  | cls => exact framed_next (.writeFB .refl fun _ hd => absurd trivial hd)
  | ret =>
    simp only [exec, execRet]
    split
    · exact framed_raise (by decide)
    · exact framed_next (.pop .refl trivial trivial)
  | jp nnn => exact framed_next (.jump .refl trivial)
  | call nnn =>
    simp only [exec, execCall]
    split
    · exact framed_next (.jump (.push .refl trivial rfl) trivial)
    · exact framed_raise (by decide)
  | seImm x kk => exact framed_next (.skipIf .refl trivial)
  | sneImm x kk => exact framed_next (.skipIf .refl trivial)
  | seReg x y => exact framed_next (.skipIf .refl trivial)
  | sneReg x y => exact framed_next (.skipIf .refl trivial)
  | ldImm x kk => exact framed_next (.writeV .refl rfl)
  | addImm x kk => exact framed_next (.writeV .refl rfl)
  | ldReg x y => exact framed_next (.writeV .refl rfl)
  | orReg x y => exact framed_next (.logicFlag (.writeV .refl (.inl rfl)) fun hc => .inr ⟨hc, rfl⟩)
  | andReg x y => exact framed_next (.logicFlag (.writeV .refl (.inl rfl)) fun hc => .inr ⟨hc, rfl⟩)
  | xorReg x y => exact framed_next (.logicFlag (.writeV .refl (.inl rfl)) fun hc => .inr ⟨hc, rfl⟩)
  | addReg x y => exact framed_next (.writeFlag (.writeV .refl (.inl rfl)) (.inr rfl))
  | sub x y => exact framed_next (.writeFlag (.writeV .refl (.inl rfl)) (.inr rfl))
  | shr x y => exact framed_next (.writeFlag (.writeV .refl (.inl rfl)) (.inr rfl))
  | subn x y => exact framed_next (.writeFlag (.writeV .refl (.inl rfl)) (.inr rfl))
  | shl x y => exact framed_next (.writeFlag (.writeV .refl (.inl rfl)) (.inr rfl))
  | ldI nnn => exact framed_next (.writeI .refl trivial)
  | jpV0 x nnn => exact framed_next (.jump .refl trivial)
  | rnd x kk => exact framed_next (.writeV (.drawByte .refl trivial) rfl)
  | drw x y n =>
    simp only [exec, execDrw]
    split
    · exact framed_raise (by decide)
    · split
      · exact framed_raise (by decide)
      next hb => exact framed_next (.writeFlag (.writeFB .refl (drawCells_drawnCells_of_not_hit hb)) rfl)
  | skp x =>
    simp only [exec, execSkp]
    split
    · exact framed_next (.skipIf .refl trivial)
    · exact framed_raise (by decide)
  | sknp x =>
    simp only [exec, execSknp]
    split
    · exact framed_next (.skipIf .refl trivial)
    · exact framed_raise (by decide)
  | ldFromDT x => exact framed_next (.writeV .refl rfl)
  | ldK x =>
    simp only [exec, execLdK]
    split
    · exact framed_next (.writeV .refl rfl)
    · exact framed_next (.jump .refl trivial)
  | ldDT x => exact framed_next (.writeDT .refl trivial)
  | ldST x => exact framed_next (.writeST .refl trivial)
  | addI x => exact framed_next (.writeI .refl trivial)
  | ldF x => exact framed_next (.writeI .refl trivial)
  | ldB x =>
    simp only [exec, execLdB]
    split
    · exact framed_raise (by decide)
    · exact framed_next (.storeBytes (sameMemoryOutside_storeBytes s _ (bcdDigits_length _)))
  | stRegs x =>
    simp only [exec, execStRegs]
    split
    · exact framed_raise (by decide)
    · have hstore : ExecFrame (.stRegs x) s (s.storeBytes s.I.toNat (s.registersUpTo x)) :=
        .storeBytes (sameMemoryOutside_storeBytes s _ (s.registersUpTo_length x))
      exact framed_next (hstore.writeBlockNextI id (State.storeBytes_I s _ _))
  | ldRegs x =>
    simp only [exec, execLdRegs]
    split
    · exact framed_raise (by decide)
    · have hload : ExecFrame (.ldRegs x) s (s.writeVs (s.loadBytes s.I.toNat (x.val + 1))) :=
        .writeVs .refl fun r hr => Nat.le_of_lt_succ (by simpa using hr)
      exact framed_next (hload.writeBlockNextI id rfl)
  | unmapped0 low => exact framed_unmappedSlot
  | unmapped8 low => exact framed_unmappedSlot
  | unmappedE low => exact framed_unmappedSlot
  | unmappedF low => exact framed_unmappedSlot

/-- What a handler's next state is: raised in this cycle, or inside the instruction's frame. -/
theorem exec_cases (h : exec i s = .next t) : (∃ e v, e.OfCycle ∧ t = s.raised e v) ∨ ExecFrame i s t := by
  obtain ⟨u, hu, hcases⟩ := exec_framed i s
  obtain rfl : t = u := Host.Outcome.next.inj (h.symm.trans hu)
  exact hcases

/-- Settles O20: a handler's frame is composed of the writes it makes. -/
theorem everyInstructionFrame : Obligations.EveryInstructionFrame := by
  intro i s t h
  obtain ⟨e, v, he, ht⟩ | hframe := exec_cases h
  · exact .inl ⟨e, v, he.1, ht⟩
  · exact .inr hframe

end Sys2Proof.Machine
end

section
/-! PROOF. What a step of the host's list can do, said once, and what every step keeps: the error and its record, what only
the host writes, and the invariant (spec/10_state.md R30 to R38, spec/60_exceptions.md R125, R131,
spec/70_reset_and_hazards.md R140, R141). -/

namespace Sys2Proof.Machine

variable {s t : State}

/-! ### The cases of a step -/

/-- The state the next operation acts on: the same machine, that operation taken off the host's list. -/
def State.takeOp (s : State) : State := { s with hostOps := s.hostOps.tail }

theorem State.takeOp_of_nil (h : s.hostOps = []) : s.takeOp = s := by
  cases s; cases h; rfl

theorem hostTurn_of_cons {op : HostOp} {ops : List HostOp} (h : s.hostOps = op :: ops) :
    hostTurn s = applyHostOp op s.takeOp := by
  simp [hostTurn, h, State.takeOp]

/-- A cycle is admitted only on a running machine, and then it is the cycle from the fetch on (R71, R72). -/
theorem cycle_next (h : cycle s = .next t) : s.Running ∧ runCycle s = .next t := by
  have hrun := running_of_cycle_next h
  exact ⟨hrun, (cycle_of_running hrun).symm.trans h⟩

/-- A load is admitted only on a machine just built and without an error, and then it is the loader (R140, R141). -/
theorem load_next {src : RomSource} (h : load src s = .next t) :
    s.err = .ok ∧ s.phase = .constructed ∧ loadRom src s = t := by
  unfold load at h
  split at h
  next he hp => exact ⟨he, hp, Host.Outcome.next.inj h⟩
  · cases h
  · cases h

/-- What a step that answers a next state did: a cycle of a running machine, an admitted load, or a key change (R131). -/
theorem step_cases (h : step s = .next t) :
    (s.Running ∧ (s.hostOps = [] ∨ ∃ ops, s.hostOps = .cycle :: ops) ∧ runCycle s.takeOp = .next t) ∨
    (∃ src ops, s.hostOps = .load src :: ops ∧ s.err = .ok ∧ s.phase = .constructed ∧ t = loadRom src s.takeOp) ∨
    (∃ k p ops, s.hostOps = .setKey k p :: ops ∧ t = setKey k p s.takeOp) := by
  cases hops : s.hostOps with
  | nil =>
    obtain ⟨hrun, hcycle⟩ := cycle_next ((step_of_cycleNext hops).symm.trans h)
    exact .inl ⟨hrun, .inl rfl, (State.takeOp_of_nil hops).symm ▸ hcycle⟩
  | cons op ops =>
    have hop : applyHostOp op s.takeOp = .next t := (hostTurn_of_cons hops).symm.trans h
    cases op with
    | cycle =>
      obtain ⟨hrun, hcycle⟩ := cycle_next hop
      exact .inl ⟨hrun, .inr ⟨ops, rfl⟩, hcycle⟩
    | load src =>
      obtain ⟨he, hp, ht⟩ := load_next hop
      exact .inr (.inl ⟨src, ops, rfl, he, hp, ht.symm⟩)
    | setKey k p => exact .inr (.inr ⟨k, p, ops, rfl, (Host.Outcome.next.inj hop).symm⟩)

/-! ### What a cycle and a load keep -/

/-- The state after a cycle: a raise at the fetch, or the handler's answer at the end of the cycle (R72 to R77). -/
theorem runCycle_next_cases (h : runCycle s = .next t) :
    (∃ a, t = s.raiseAt s.pc .addressOutOfRange (some a)) ∨
    (∃ w u, exec (decodeWord w) s.advance = .next u ∧ t = u.endCycle) := by
  obtain ⟨a, -, hrun⟩ | ⟨w, u, -, hexec, hrun⟩ := runCycle_cases s
  · exact .inl ⟨a, Host.Outcome.next.inj (h.symm.trans hrun)⟩
  · exact .inr ⟨w, u, hexec, Host.Outcome.next.inj (h.symm.trans hrun)⟩

/-- No cycle writes the keypad, the phase, the parameters or the host's plans (R75). -/
theorem runCycle_keeps (h : runCycle s = .next t) :
    t.K = s.K ∧ t.phase = s.phase ∧ t.cfg = s.cfg ∧ t.hostOps = s.hostOps := by
  obtain ⟨a, rfl⟩ | ⟨w, u, hexec, rfl⟩ := runCycle_next_cases h
  · exact ⟨rfl, rfl, rfl, rfl⟩
  · simpa using exec_keeps hexec

/-- A cycle keeps the canonical form of memory. -/
theorem runCycle_memWf (h : runCycle s = .next t) (hw : s.memWf = true) : t.memWf = true := by
  obtain ⟨a, rfl⟩ | ⟨w, u, hexec, rfl⟩ := runCycle_next_cases h
  · exact hw
  · simpa using exec_memWf hexec hw

/-- A cycle keeps the error and the record, or raises an error of a cycle and records the counter it leaves (R33, R78). -/
theorem runCycle_err (h : runCycle s = .next t) :
    (t.err = s.err ∧ t.fault = s.fault) ∨ (t.err.OfCycle ∧ ∃ w v, t.fault = some ⟨some t.pc, w, v⟩) := by
  obtain ⟨a, rfl⟩ | ⟨w, u, hexec, rfl⟩ := runCycle_next_cases h
  · exact .inr ⟨by simp [ErrorState.OfCycle], _, _, rfl⟩
  · simp only [State.endCycle_err, State.endCycle_fault, State.endCycle_pc]
    obtain ⟨e, v, he, rfl⟩ | hframe := exec_cases hexec
    · exact .inr ⟨he, _, _, rfl⟩
    · obtain ⟨-, herr, hfault, -⟩ := hframe.untouched
      exact .inl ⟨herr, hfault⟩

/-- What the loader does (R140): it fails with one of its two errors and leaves the machine as it was, or it stores the
image and the machine is loaded. -/
theorem loadRom_cases (src : RomSource) (s : State) :
    (∃ e f, (e = .fileNotFound ∨ e = .romOverflow) ∧ loadRom src s = { s with err := e, fault := f }) ∨
    (∃ img, loadRom src s = { s.storeBytes romBase img with phase := .loaded }) := by
  cases src with
  | notFound => exact .inl ⟨.fileNotFound, s.fault, .inl rfl, rfl⟩
  | image img =>
    by_cases hlen : img.length > romLimit s.cfg
    · exact .inl ⟨.romOverflow, _, .inr rfl, if_pos hlen⟩
    · exact .inr ⟨img, if_neg hlen⟩

/-- A load writes neither the parameters nor the keypad, and leaves the phase or makes it `Loaded`. -/
theorem loadRom_keeps (src : RomSource) (s : State) :
    (loadRom src s).cfg = s.cfg ∧ (loadRom src s).K = s.K ∧
      ((loadRom src s).phase = s.phase ∨ (loadRom src s).phase = .loaded) := by
  obtain ⟨e, f, -, h⟩ | ⟨img, h⟩ := loadRom_cases src s <;> simp [h]

/-! ### The statements -/

/-- Settles O11: a cycle and a load need `err = Ok`, and a key change writes the keypad only. -/
theorem errorIsSticky : Obligations.ErrorIsSticky := by
  intro s t herr h
  obtain ⟨hrun, -, -⟩ | ⟨src, ops, -, hok, -, -⟩ | ⟨k, p, ops, -, rfl⟩ := step_cases h
  · exact absurd hrun.1 herr
  · exact absurd hok herr
  · exact ⟨rfl, rfl⟩

/-- Settles O23, by the three cases of a step. -/
theorem hostOwnedState : Obligations.HostOwnedState := by
  intro s t h
  obtain ⟨-, -, hcycle⟩ | ⟨src, ops, hops, -, hphase, rfl⟩ | ⟨k, p, ops, hops, rfl⟩ := step_cases h
  · obtain ⟨hK, hph, hcfg, -⟩ := runCycle_keeps hcycle
    exact ⟨hcfg, .inl hK, .inl hph⟩
  · obtain ⟨hcfg, hK, hph⟩ := loadRom_keeps src s.takeOp
    exact ⟨hcfg, .inl hK, hph.imp_right fun hl => ⟨hphase, hl, src, ops, hops⟩⟩
  · exact ⟨rfl, .inr ⟨k, p, ops, hops, rfl⟩, .inl rfl⟩

/-! ### The invariant -/

/-- A machine that is as built stays so when only the keypad, the error, the record and the host's plans are written. -/
theorem asBuilt_of_eq (hs : s = { State.construct s.cfg with K := s.K, err := s.err, fault := s.fault, hostOps := s.hostOps })
    (ht : t = { s with K := t.K, err := t.err, fault := t.fault, hostOps := t.hostOps }) :
    t = { State.construct t.cfg with K := t.K, err := t.err, fault := t.fault, hostOps := t.hostOps } := by
  have hcfg : t.cfg = s.cfg := by rw [ht]
  rw [hcfg]
  exact ht.trans
    (congrArg (fun u : State => { u with K := t.K, err := t.err, fault := t.fault, hostOps := t.hostOps }) hs)

/-- The invariant says nothing of the keypad and of the host's plans, which the host may write at any time. -/
theorem State.Inv.withHost (h : s.Inv) (K : Vector Bool 16) (ops : List HostOp) :
    ({ s with K := K, hostOps := ops } : State).Inv where
  canonical := h.canonical
  noRecord := h.noRecord
  asBuilt hp := asBuilt_of_eq (h.asBuilt hp) rfl
  loadErrors := h.loadErrors
  cycleErrors := h.cycleErrors
  precise := h.precise

/-- A cycle of a running machine keeps the invariant: it stays loaded, and what it raises is precise (R78). -/
theorem runCycle_inv (hs : s.Inv) (hrun : s.Running) (h : runCycle s = .next t) : t.Inv := by
  obtain ⟨hok, hloaded⟩ := hrun
  obtain ⟨-, hphase, -, -⟩ := runCycle_keeps h
  have hnot : t.phase ≠ .constructed := by simp [hphase, hloaded]
  have hw := runCycle_memWf h hs.canonical
  obtain ⟨herr, hfault⟩ | ⟨⟨hne, hnf, hro⟩, hrecord⟩ := runCycle_err h
  · have hok' : t.err = .ok := herr.trans hok
    exact {
      canonical := hw
      noRecord := fun _ => hfault.trans (hs.noRecord hok)
      asBuilt := fun hp => absurd hp hnot
      loadErrors := fun _ => .inl hok'
      cycleErrors := fun _ => by simp [hok']
      precise := fun _ hbad => absurd hok' hbad }
  · exact {
      canonical := hw
      noRecord := fun ht => absurd ht hne
      asBuilt := fun hp => absurd hp hnot
      loadErrors := fun hp => absurd hp hnot
      cycleErrors := fun _ => ⟨hnf, hro⟩
      precise := fun _ _ => hrecord }

/-- An admitted load keeps the invariant: a failed one leaves the machine as built, and one that succeeds ends the phase in
which it has to be (R140, R141). -/
theorem loadRom_inv (src : RomSource) (hs : s.Inv) (hok : s.err = .ok) (hphase : s.phase = .constructed) :
    (loadRom src s).Inv := by
  obtain ⟨e, f, he, hload⟩ | ⟨img, hload⟩ := loadRom_cases src s
  · have hne : e ≠ .ok := by rintro rfl; simp at he
    have hnot : s.phase ≠ .loaded := by simp [hphase]
    rw [hload]
    exact {
      canonical := hs.canonical
      noRecord := fun ht => absurd ht hne
      asBuilt := fun hp => asBuilt_of_eq (hs.asBuilt hp) rfl
      loadErrors := fun _ => .inr he
      cycleErrors := fun hp => absurd hp hnot
      precise := fun hp => absurd hp hnot }
  · rw [hload]
    exact {
      canonical := State.memWf_storeBytes s romBase img hs.canonical
      noRecord := fun _ => by simpa using hs.noRecord hok
      asBuilt := nofun
      loadErrors := nofun
      cycleErrors := fun _ => by simp [hok]
      precise := fun _ hbad => absurd (by simpa using hok) hbad }

/-- Settles O16: taking an operation off the list keeps the invariant, and so does each of the three things a step does. -/
theorem stepKeepsInvariant : Obligations.StepKeepsInvariant := by
  intro s t hs h
  have htake : s.takeOp.Inv := hs.withHost s.K s.hostOps.tail
  obtain ⟨hrun, -, hcycle⟩ | ⟨src, ops, -, hok, hphase, rfl⟩ | ⟨k, p, ops, -, rfl⟩ := step_cases h
  · exact runCycle_inv htake hrun hcycle
  · exact loadRom_inv src htake hok hphase
  · exact htake.withHost (s.K.set k.val p) s.hostOps.tail

end Sys2Proof.Machine
end

section
/-! PROOF. No instruction reads `ST`: every handler commutes with a write of it (spec/10_state.md R27,
spec/45_timers_keypad.md R121). -/

namespace Sys2Proof.Machine

variable {i : Instr} {s t : State}

/-! ### Operations commute with a write of `ST` -/

theorem State.skipIf_writeST (s : State) (b : Byte) (c : Bool) : (s.writeST b).skipIf c = (s.skipIf c).writeST b := by
  cases c <;> rfl

theorem State.writeByte_writeST (s : State) (b : Byte) (a : Nat) (v : Byte) :
    (s.writeST b).writeByte a v = (s.writeByte a v).writeST b :=
  Eq.symm (apply_ite (State.writeST b) (a < memSize) _ _)

theorem State.storeBytes_writeST (s : State) (b : Byte) (a : Nat) (bs : List Byte) :
    (s.writeST b).storeBytes a bs = (s.storeBytes a bs).writeST b := by
  induction bs generalizing a s with
  | nil => rfl
  | cons v bs ih => rw [State.storeBytes, State.writeByte_writeST, ih, State.storeBytes]

theorem State.logicFlag_writeST (s : State) (b : Byte) : (s.writeST b).logicFlag = s.logicFlag.writeST b :=
  Eq.symm (apply_ite (State.writeST b) (s.cfg.logicResetsVF = true) _ _)

/-- Change the state of a next answer, and leave a stop as it is. -/
def mapNext (f : State → State) : Host.Outcome State Fault Refusal → Host.Outcome State Fault Refusal
  | .next t => .next (f t)
  | .fault r => .fault r
  | .refused r => .refused r

theorem unmappedSlot_writeST (s : State) (b : Byte) :
    unmappedSlot (s.writeST b) = mapNext (·.writeST b) (unmappedSlot s) := by
  simp only [unmappedSlot, State.writeST_cfg]
  split <;> rfl

/-! ### What the checks read is not `ST` -/

theorem State.drawnCells_writeST (s : State) (b : Byte) (x y : Reg) (n : Fin 16) :
    (s.writeST b).drawnCells x y n = s.drawnCells x y n := rfl

theorem State.keyOperand_writeST (s : State) (b : Byte) (x : Reg) : (s.writeST b).keyOperand x = s.keyOperand x := rfl

theorem State.firstKey_writeST (s : State) (b : Byte) : (s.writeST b).firstKey = s.firstKey := rfl

/-! ### Handlers -/

/-- A handler other than `LD ST, Vx` does the same whatever `ST` holds, and leaves it. -/
theorem exec_writeST (hi : ¬ Instr.writesST i) (s : State) (b : Byte) :
    exec i (s.writeST b) = mapNext (·.writeST b) (exec i s) := by
  cases i with
  | ldST x => exact absurd trivial hi
  | ret => exact Eq.symm (apply_dite (mapNext (·.writeST b)) (s.SP.val = 0) _ _)
  | call nnn => exact Eq.symm (apply_dite (mapNext (·.writeST b)) (s.SP.val < 16) _ _)
  | seImm x kk => exact congrArg Host.Outcome.next (State.skipIf_writeST s b _)
  | sneImm x kk => exact congrArg Host.Outcome.next (State.skipIf_writeST s b _)
  | seReg x y => exact congrArg Host.Outcome.next (State.skipIf_writeST s b _)
  | sneReg x y => exact congrArg Host.Outcome.next (State.skipIf_writeST s b _)
  | orReg x y => exact congrArg Host.Outcome.next (State.logicFlag_writeST (s.writeV x _) b)
  | andReg x y => exact congrArg Host.Outcome.next (State.logicFlag_writeST (s.writeV x _) b)
  | xorReg x y => exact congrArg Host.Outcome.next (State.logicFlag_writeST (s.writeV x _) b)
  | drw x y n =>
    simp only [exec, execDrw, State.writeST_I, State.drawnCells_writeST]
    split
    · rfl
    · split <;> rfl
  | skp x =>
    simp only [exec, execSkp, State.keyOperand_writeST]
    split
    · exact congrArg Host.Outcome.next (State.skipIf_writeST s b _)
    · rfl
  | sknp x =>
    simp only [exec, execSknp, State.keyOperand_writeST]
    split
    · exact congrArg Host.Outcome.next (State.skipIf_writeST s b _)
    · rfl
  | ldK x =>
    simp only [exec, execLdK, State.firstKey_writeST]
    split <;> rfl
  | ldB x =>
    simp only [exec, execLdB, State.writeST_I]
    split
    · rfl
    · exact congrArg Host.Outcome.next (State.storeBytes_writeST s b _ _)
  | stRegs x =>
    simp only [exec, execStRegs, State.writeST_I]
    split
    · rfl
    · exact congrArg (fun u : State => Host.Outcome.next (u.writeI (s.blockNextI x))) (State.storeBytes_writeST s b _ _)
  | ldRegs x =>
    simp only [exec, execLdRegs, State.writeST_I]
    split <;> rfl
  | unmapped0 low => exact unmappedSlot_writeST s b
  | unmapped8 low => exact unmappedSlot_writeST s b
  | unmappedE low => exact unmappedSlot_writeST s b
  | unmappedF low => exact unmappedSlot_writeST s b
  | _ => rfl

/-- `LD ST, Vx` overwrites `ST`, so nothing is left of what it held. -/
theorem exec_ldST_writeST (x : Reg) (s : State) (b : Byte) : exec (.ldST x) (s.writeST b) = exec (.ldST x) s := rfl

/-- Settles O22: every handler but `LD ST, Vx` commutes with a write of `ST`, and that one overwrites it. -/
theorem soundTimerIsNotRead : Obligations.SoundTimerIsNotRead := by
  intro i s t b h
  have hother (hi : ¬ Instr.writesST i) : exec i (s.writeST b) = .next (t.writeST b) := by
    rw [exec_writeST hi, h, mapNext]
  cases i with
  | ldST x => exact (exec_ldST_writeST x s b).trans h
  | _ => exact hother id

end Sys2Proof.Machine
end

section
/-! PROOF. Memory as the fetch reads it: the word of two bytes, the cycle whose fetch finds no two bytes, and a register block
fetched right after it is stored (spec/20_memory.md R45, R46, R52, spec/40_cycle.md R72). -/

namespace Sys2Proof.Machine

variable {s t : State}

/-! ### The fetch -/

/-- The first byte is the high half of the word (R45). -/
theorem wordOfBytes_toNat (hi lo : Byte) : (wordOfBytes hi lo).toNat = hi.toNat * 256 + lo.toNat := by
  have hhi := hi.isLt
  have hlo := lo.isLt
  rw [wordOfBytes, BitVec.toNat_ofNat]
  omega

/-- A cycle whose fetch fails raises at its own counter, and no word is recorded (R72, R78). -/
theorem runCycle_of_fetchAt_error {a : Nat} (h : s.fetchAt s.pc = .error a) :
    runCycle s = .next { s with err := .addressOutOfRange, fault := some ⟨some s.pc, none, some a⟩ } := by
  simp [runCycle, h, State.raiseAt, State.wordAt_of_fetchAt_error]

/-- Settles O7: inside the space by the bytes of the fetched word, otherwise by the raise of a failed fetch, whose address
is the first one that does not exist. -/
theorem fetchReadsTwoBytesOrRaises : Obligations.FetchReadsTwoBytesOrRaises := by
  intro s
  refine ⟨fun hin => ?_, fun hrun hnext hout => ?_⟩
  · exact ⟨_, State.wordAt_of_fetchAt s (State.fetchAt_inside s hin), wordOfBytes_toNat _ _⟩
  · have hfirst : (if s.pc.toNat < 0x1000 then s.pc.toNat + 1 else s.pc.toNat) = max s.pc.toNat memSize := by
      rw [memSize]
      split <;> omega
    rw [step_of_cycleNext hnext, cycle_of_running hrun, hfirst]
    exact runCycle_of_fetchAt_error (State.fetchAt_outside s hout)

/-! ### A stored register block -/

/-- A register block inside the space is stored without a raise (R111). -/
theorem exec_stRegs_inside {x : Reg} (h : s.I.toNat + x.val < memSize) :
    exec (.stRegs x) s = .next ((s.storeBytes s.I.toNat (s.registersUpTo x)).writeI (s.blockNextI x)) := by
  have hnone : blockFault s.I.toNat (x.val + 1) = none := blockFault_eq_none.2 (.inr h)
  simp only [exec, execStRegs, hnone]

/-- `LD [I], Vx` leaves `Vk` at `I + k` for every `k` up to `x` (R111). -/
theorem readByte_of_exec_stRegs {x : Reg} (hwf : s.memWf = true) (hin : s.I.toNat + x.val < memSize)
    (h : exec (.stRegs x) s = .next t) {k : Reg} (hk : k ≤ x) : t.readByte (s.I.toNat + k.val) = s.readV k := by
  obtain rfl := Host.Outcome.next.inj ((exec_stRegs_inside hin).symm.trans h)
  have hlt : k.val < (s.registersUpTo x).length := by
    rw [State.registersUpTo_length]
    exact Nat.lt_succ_of_le hk
  have hblock : s.I.toNat + (s.registersUpTo x).length ≤ memSize := by
    rw [State.registersUpTo_length]
    exact hin
  calc (s.storeBytes s.I.toNat (s.registersUpTo x)).readByte (s.I.toNat + k.val)
      = (s.registersUpTo x)[k.val] := State.readByte_storeBytes s hwf hlt hblock
    _ = s.readV k := State.registersUpTo_getElem s x k hlt

/-- Settles O41: the fetch reads the two bytes at its address, and each is the register the store left there. -/
theorem storeSeenByFetch : Obligations.StoreSeenByFetch := by
  intro x s t p k hwf hin h hp hk
  have hbyte (j : Reg) (hj : j ≤ x) : t.readByte (s.I.toNat + j.val) = s.readV j := readByte_of_exec_stRegs hwf hin h hj
  have hfits : p.toNat + 1 < memSize := by
    rw [memSize]
    omega
  rw [State.fetchAt_inside t hfits, hp, Nat.add_assoc, hbyte ⟨k, _⟩ (Nat.le_of_succ_le hk), hbyte ⟨k + 1, _⟩ hk]

end Sys2Proof.Machine
end

section
/-! PROOF. The decoder and the encoder undo each other: the fields of a word laid out by the encoder, the words of an unmapped
slot, and the opcode map as what the decoder decides by (spec/30_encoding.md R54 to R69). -/

namespace Sys2Proof

variable {f d : Nat} {x y : Reg} {kk : Nat} {nnn : BitVec 12} {w : Word} {i : Instr}

/-! ### The fields of the three word shapes -/

@[simp] theorem family_ofNNN (hf : f < 16) : field (ofNNN f nnn) 15 12 = f := by
  rw [family_eq, ofNNN_toNat hf]
  omega

@[simp] theorem fieldNNN_ofNNN (hf : f < 16) : fieldNNN (ofNNN f nnn) = nnn :=
  fieldNNN_eq (by rw [ofNNN_toNat hf]; omega)

@[simp] theorem lowNibble_ofNNN (hf : f < 16) : field (ofNNN f nnn) 3 0 = nnn.toNat % 16 := by
  rw [lowNibble_eq, ofNNN_toNat hf]
  omega

@[simp] theorem lowByte_ofNNN (hf : f < 16) : field (ofNNN f nnn) 7 0 = nnn.toNat % 256 := by
  rw [lowByteField_eq, ofNNN_toNat hf]
  omega

@[simp] theorem family_ofXKK (hf : f < 16) (hk : kk < 256) : field (ofXKK f x kk) 15 12 = f := by
  rw [family_eq, ofXKK_toNat hf x hk]
  omega

@[simp] theorem fieldX_ofXKK (hf : f < 16) (hk : kk < 256) : fieldX (ofXKK f x kk) = x :=
  fieldX_eq (by rw [ofXKK_toNat hf x hk]; omega)

@[simp] theorem fieldKK_ofXKK (hf : f < 16) (b : Byte) : fieldKK (ofXKK f x b.toNat) = b :=
  fieldKK_eq (by rw [ofXKK_toNat hf x b.isLt]; omega)

@[simp] theorem lowNibble_ofXKK (hf : f < 16) (hk : kk < 256) : field (ofXKK f x kk) 3 0 = kk % 16 := by
  rw [lowNibble_eq, ofXKK_toNat hf x hk]
  omega

@[simp] theorem lowByte_ofXKK (hf : f < 16) (hk : kk < 256) : field (ofXKK f x kk) 7 0 = kk := by
  rw [lowByteField_eq, ofXKK_toNat hf x hk]
  omega

@[simp] theorem family_ofNibbles (hf : f < 16) (hd : d < 16) : field (ofNibbles f x y d) 15 12 = f := by
  rw [family_eq, ofNibbles_toNat hf x y hd]
  omega

@[simp] theorem fieldX_ofNibbles (hf : f < 16) (hd : d < 16) : fieldX (ofNibbles f x y d) = x :=
  fieldX_eq (by rw [ofNibbles_toNat hf x y hd]; omega)

@[simp] theorem fieldY_ofNibbles (hf : f < 16) (hd : d < 16) : fieldY (ofNibbles f x y d) = y :=
  fieldY_eq (by rw [ofNibbles_toNat hf x y hd]; omega)

@[simp] theorem fieldN_ofNibbles (hf : f < 16) (n : Fin 16) : fieldN (ofNibbles f x y n) = n :=
  fieldN_eq (by rw [ofNibbles_toNat hf x y n.isLt]; omega)

@[simp] theorem lowNibble_ofNibbles (hf : f < 16) (hd : d < 16) : field (ofNibbles f x y d) 3 0 = d := by
  rw [lowNibble_eq, ofNibbles_toNat hf x y hd]
  omega

/-! ### The word made again from its fields -/

theorem ofNNN_fields (hf : field w 15 12 = f) : ofNNN f (fieldNNN w) = w := by
  have hlt := field_lt w 15 12
  apply BitVec.eq_of_toNat_eq
  rw [ofNNN_toNat (by omega), fieldNNN_toNat]
  rw [family_eq] at hf
  omega

theorem ofXKK_fields (hf : field w 15 12 = f) (hk : field w 7 0 = kk) : ofXKK f (fieldX w) kk = w := by
  have hlt := field_lt w 15 12
  have hlow := field_lt w 7 0
  apply BitVec.eq_of_toNat_eq
  rw [ofXKK_toNat (by omega) _ (by omega), fieldX_val]
  rw [family_eq] at hf
  rw [lowByteField_eq] at hk
  omega

theorem ofNibbles_fields (hf : field w 15 12 = f) (hd : field w 3 0 = d) : ofNibbles f (fieldX w) (fieldY w) d = w := by
  have hlt := field_lt w 15 12
  have hlow := field_lt w 3 0
  apply BitVec.eq_of_toNat_eq
  rw [ofNibbles_toNat (by omega) _ _ (by omega), fieldX_val, fieldY_val]
  rw [family_eq] at hf
  rw [lowNibble_eq] at hd
  omega

theorem lowByte_eq_fieldKK (w : Word) : field w 7 0 = (fieldKK w).toNat := by
  rw [lowByteField_eq, fieldKK_toNat]

theorem lowNibble_eq_fieldN (w : Word) : field w 3 0 = (fieldN w).val := by
  rw [lowNibble_eq, fieldN_val]

/-! ### Unmapped slots -/

theorem decodeFamily0_of_not_mem (h : field w 3 0 ∉ mapped0) : decodeFamily0 w = .unmapped0 (fieldNNN w) := by
  unfold decodeFamily0
  split
  case h_3 => rfl
  all_goals exact absurd (by simp [*, mapped0]) h

theorem decodeFamily8_of_not_mem (h : field w 3 0 ∉ mapped8) : decodeFamily8 w = .unmapped8 (fieldNNN w) := by
  unfold decodeFamily8
  split
  case h_10 => rfl
  all_goals exact absurd (by simp [*, mapped8]) h

theorem decodeFamilyE_of_not_mem (h : field w 3 0 ∉ mappedE) : decodeFamilyE w = .unmappedE (fieldNNN w) := by
  unfold decodeFamilyE
  split
  case h_3 => rfl
  all_goals exact absurd (by simp [*, mappedE]) h

theorem decodeFamilyF_of_not_mem (h : field w 7 0 ∉ mappedF) : decodeFamilyF w = .unmappedF (fieldNNN w) := by
  unfold decodeFamilyF
  split
  case h_10 => rfl
  all_goals exact absurd (by simp [*, mappedF]) h

/-! ### Decoding an encoded instruction -/

/-- An instruction's canonical word has its family, its sub-code and its operands in the fields the decoder reads (R64, R69). -/
theorem decodeWord_encode (h : i.wellFormed = true) : decodeWord (encode i) = i := by
  cases i with
  | cls | ret => rfl
  | jpV0 x nnn =>
    have hx : fieldX (ofNNN 0xB nnn) = x := by
      have hrel : x.val = nnn.toNat / 256 := by simpa [Instr.wellFormed] using h
      exact fieldX_eq (by rw [ofNNN_toNat (by decide)]; omega)
    simp [encode, decodeWord, hx]
  | unmapped0 low =>
    have hlow : low.toNat % 16 ∉ mapped0 := by simpa [Instr.wellFormed] using h
    simp [encode, decodeWord, decodeFamily0_of_not_mem, hlow]
  | unmapped8 low =>
    have hlow : low.toNat % 16 ∉ mapped8 := by simpa [Instr.wellFormed] using h
    simp [encode, decodeWord, decodeFamily8_of_not_mem, hlow]
  | unmappedE low =>
    have hlow : low.toNat % 16 ∉ mappedE := by simpa [Instr.wellFormed] using h
    simp [encode, decodeWord, decodeFamilyE_of_not_mem, hlow]
  | unmappedF low =>
    have hlow : low.toNat % 256 ∉ mappedF := by simpa [Instr.wellFormed] using h
    simp [encode, decodeWord, decodeFamilyF_of_not_mem, hlow]
  | jp | call | ldI | seReg | sneReg | drw => simp [encode, decodeWord]
  | seImm x kk | sneImm x kk | ldImm x kk | addImm x kk | rnd x kk => simp [encode, decodeWord, kk.isLt]
  | ldReg | orReg | andReg | xorReg | addReg | sub | shr | subn | shl => simp [encode, decodeWord, decodeFamily8]
  | skp | sknp => simp [encode, decodeWord, decodeFamilyE]
  | _ => simp [encode, decodeWord, decodeFamilyF]

/-- The decoder reads the two bytes of a word as the word, and leaves what follows them (R45, R54). -/
theorem decode_bytes (w : Word) (rest : List Byte) :
    decode (highByte w :: lowByte w :: rest) = .ok (decodeWord w, rest) := by
  rw [decode, wordOfBytes_high_low]

/-- Settles O1, on the word and through its two bytes. -/
theorem decodeAfterEncode : Obligations.DecodeAfterEncode := by
  intro i rest h
  have hw : decodeWord (encode i) = i := decodeWord_encode h
  refine ⟨hw, ?_⟩
  calc decode (encodeBytes i ++ rest) = .ok (decodeWord (encode i), rest) := decode_bytes (encode i) rest
    _ = .ok (i, rest) := by rw [hw]

/-! ### Every decoded instruction is well formed -/

theorem fieldNNN_mod_16 (w : Word) : (fieldNNN w).toNat % 16 = field w 3 0 := by
  rw [fieldNNN_toNat, lowNibble_eq]
  omega

theorem fieldNNN_mod_256 (w : Word) : (fieldNNN w).toNat % 256 = field w 7 0 := by
  rw [fieldNNN_toNat, lowByteField_eq]
  omega

theorem fieldX_eq_fieldNNN_div (w : Word) : (fieldX w).val = (fieldNNN w).toNat / 256 := by
  rw [fieldX_val, fieldNNN_toNat]
  omega

theorem decodeFamily0_wellFormed (w : Word) : (decodeFamily0 w).wellFormed = true := by
  unfold decodeFamily0
  split
  case h_3 => simp_all [Instr.wellFormed, mapped0, fieldNNN_mod_16]
  all_goals rfl

theorem decodeFamily8_wellFormed (w : Word) : (decodeFamily8 w).wellFormed = true := by
  unfold decodeFamily8
  split
  case h_10 => simp_all [Instr.wellFormed, mapped8, fieldNNN_mod_16]
  all_goals rfl

theorem decodeFamilyE_wellFormed (w : Word) : (decodeFamilyE w).wellFormed = true := by
  unfold decodeFamilyE
  split
  case h_3 => simp_all [Instr.wellFormed, mappedE, fieldNNN_mod_16]
  all_goals rfl

theorem decodeFamilyF_wellFormed (w : Word) : (decodeFamilyF w).wellFormed = true := by
  unfold decodeFamilyF
  split
  case h_10 => simp_all [Instr.wellFormed, mappedF, fieldNNN_mod_256]
  all_goals rfl

theorem decodeWord_wellFormed (w : Word) : (decodeWord w).wellFormed = true := by
  unfold decodeWord
  split
  case h_1 => exact decodeFamily0_wellFormed w
  case h_9 => exact decodeFamily8_wellFormed w
  case h_12 => exact beq_iff_eq.2 (fieldX_eq_fieldNNN_div w)
  case h_15 => exact decodeFamilyE_wellFormed w
  case h_16 => exact decodeFamilyF_wellFormed w
  all_goals rfl

/-! ### A decoded word meets its instruction's row -/

/-- The word meets the row of the opcode map that carries the instruction's number, where it has one (R65). -/
def MeetsOwnRow (w : Word) (i : Instr) : Prop :=
  ∀ k, i.rowNumber = some k → ∃ r, opcodeMap.find? (·.number == k) = some r ∧ w &&& r.mask = r.pattern

variable {k : Nat} {p : Word}

theorem meetsOwnRow_of_find {m : Word} (hi : i.rowNumber = some k) (hr : opcodeMap.find? (·.number == k) = some ⟨k, p, m⟩)
    (hm : w &&& m = p) : MeetsOwnRow w i := by
  intro j hj
  obtain rfl : k = j := Option.some.inj (hi.symm.trans hj)
  exact ⟨_, hr, hm⟩

theorem meetsOwnRow_of_unmapped (hi : i.rowNumber = none) : MeetsOwnRow w i := by
  intro k hk
  exact absurd (hi.symm.trans hk) (by simp)

theorem meetsOwnRow_of_family (hf : field w 15 12 = f) (hp : p.toNat = f * 4096) (hi : i.rowNumber = some k)
    (hr : opcodeMap.find? (·.number == k) = some ⟨k, p, 0xF000⟩) : MeetsOwnRow w i := by
  rw [family_eq] at hf
  exact meetsOwnRow_of_find hi hr ((and_F000_eq_iff w p).2 (by omega))

theorem meetsOwnRow_of_nibble (hf : field w 15 12 = f) (hd : field w 3 0 = d) (hp : p.toNat = f * 4096 + d)
    (hi : i.rowNumber = some k) (hr : opcodeMap.find? (·.number == k) = some ⟨k, p, 0xF00F⟩) : MeetsOwnRow w i := by
  rw [family_eq] at hf
  rw [lowNibble_eq] at hd
  exact meetsOwnRow_of_find hi hr ((and_F00F_eq_iff w p).2 (by omega))

theorem meetsOwnRow_of_byte (hf : field w 15 12 = f) (hk : field w 7 0 = kk) (hp : p.toNat = f * 4096 + kk)
    (hi : i.rowNumber = some k) (hr : opcodeMap.find? (·.number == k) = some ⟨k, p, 0xF0FF⟩) : MeetsOwnRow w i := by
  rw [family_eq] at hf
  rw [lowByteField_eq] at hk
  exact meetsOwnRow_of_find hi hr ((and_F0FF_eq_iff w p).2 (by omega))

theorem decodeFamily0_meetsOwnRow (hf : field w 15 12 = 0x0) : MeetsOwnRow w (decodeFamily0 w) := by
  unfold decodeFamily0
  split
  case h_3 => exact meetsOwnRow_of_unmapped rfl
  all_goals exact meetsOwnRow_of_nibble hf ‹_› rfl rfl rfl

theorem decodeFamily8_meetsOwnRow (hf : field w 15 12 = 0x8) : MeetsOwnRow w (decodeFamily8 w) := by
  unfold decodeFamily8
  split
  case h_10 => exact meetsOwnRow_of_unmapped rfl
  all_goals exact meetsOwnRow_of_nibble hf ‹_› rfl rfl rfl

theorem decodeFamilyE_meetsOwnRow (hf : field w 15 12 = 0xE) : MeetsOwnRow w (decodeFamilyE w) := by
  unfold decodeFamilyE
  split
  case h_3 => exact meetsOwnRow_of_unmapped rfl
  all_goals exact meetsOwnRow_of_nibble hf ‹_› rfl rfl rfl

theorem decodeFamilyF_meetsOwnRow (hf : field w 15 12 = 0xF) : MeetsOwnRow w (decodeFamilyF w) := by
  unfold decodeFamilyF
  split
  case h_10 => exact meetsOwnRow_of_unmapped rfl
  all_goals exact meetsOwnRow_of_byte hf ‹_› rfl rfl rfl

theorem decodeWord_meetsOwnRow (w : Word) : MeetsOwnRow w (decodeWord w) := by
  have hlt := field_lt w 15 12
  unfold decodeWord
  split
  case h_1 hf => exact decodeFamily0_meetsOwnRow hf
  case h_9 hf => exact decodeFamily8_meetsOwnRow hf
  case h_15 hf => exact decodeFamilyE_meetsOwnRow hf
  case h_16 => exact decodeFamilyF_meetsOwnRow (by simp only [imp_false] at *; omega)
  all_goals exact meetsOwnRow_of_family ‹_› rfl rfl rfl

/-! ### A row decides what its words decode to -/

/-- Every word that meets the row decodes to an instruction of its number (R65). -/
def OpcodeRow.Decides (r : OpcodeRow) : Prop := ∀ w, w &&& r.mask = r.pattern → (decodeWord w).rowNumber = some r.number

end Sys2Proof

namespace Sys2Proof.Machine

theorem Encodes.decides {k : Nat} {m p : Word} {f : Word → Instr} (he : Encodes m p f)
    (hk : ∀ w, (f w).rowNumber = some k := by exact fun _ => rfl) : (OpcodeRow.mk k p m).Decides := by
  intro w hw
  rw [he w hw, hk]

/-- Each row of the map decides its words, in the order of the map. -/
theorem opcodeMap_decides : ∀ r ∈ opcodeMap, r.Decides := by
  simp only [opcodeMap, List.forall_mem_append, List.forall_mem_cons, List.not_mem_nil, false_implies, implies_true, and_true]
  exact ⟨⟨⟨⟨encodes_cls.decides, encodes_ret.decides, encodes_jp.decides, encodes_call.decides, encodes_seImm.decides,
      encodes_sneImm.decides, encodes_seReg.decides, encodes_ldImm.decides, encodes_addImm.decides⟩,
    encodes_ldReg.decides, encodes_orReg.decides, encodes_andReg.decides, encodes_xorReg.decides, encodes_addReg.decides,
      encodes_sub.decides, encodes_shr.decides, encodes_subn.decides, encodes_shl.decides⟩,
    encodes_sneReg.decides, encodes_ldI.decides, encodes_jpV0.decides, encodes_rnd.decides, encodes_drw.decides,
      encodes_skp.decides, encodes_sknp.decides⟩,
    encodes_ldFromDT.decides, encodes_ldK.decides, encodes_ldDT.decides, encodes_ldST.decides, encodes_addI.decides,
      encodes_ldF.decides, encodes_ldB.decides, encodes_stRegs.decides, encodes_ldRegs.decides⟩

end Sys2Proof.Machine

namespace Sys2Proof

variable {r : OpcodeRow} {w : Word}

theorem opcodeMap_numbers_differ : opcodeMap.Pairwise (fun r r' => r.number ≠ r'.number) := by decide

theorem find_opcodeMap_number : ∀ r ∈ opcodeMap, opcodeMap.find? (·.number == r.number) = some r := by decide

/-- R65, for one row: meeting it and decoding to its instruction are the same. -/
theorem meets_iff_rowNumber (hr : r ∈ opcodeMap) :
    w &&& r.mask = r.pattern ↔ (decodeWord w).rowNumber = some r.number := by
  refine ⟨Machine.opcodeMap_decides r hr w, fun h => ?_⟩
  obtain ⟨r', hfind, hmeets⟩ := decodeWord_meetsOwnRow w r.number h
  obtain rfl : r = r' := Option.some.inj ((find_opcodeMap_number r hr).symm.trans hfind)
  exact hmeets

/-- R63: a word of no row is an unmapped slot, and the other way round. -/
theorem meets_no_row_iff : (∀ r ∈ opcodeMap, w &&& r.mask ≠ r.pattern) ↔ (decodeWord w).rowNumber = none := by
  constructor
  · intro hno
    refine Option.eq_none_iff_forall_ne_some.2 fun k hk => ?_
    obtain ⟨r, hfind, hmeets⟩ := decodeWord_meetsOwnRow w k hk
    exact hno r (List.mem_of_find?_eq_some hfind) hmeets
  · intro hnone r hr hmeets
    have hsome : (decodeWord w).rowNumber = some r.number := (meets_iff_rowNumber hr).1 hmeets
    exact absurd (hnone.symm.trans hsome) (by simp)

/-- Settles O2: meeting a row fixes the number of the decoded instruction, and no two rows have the same number. -/
theorem opcodeMapDecides : Obligations.OpcodeMapDecides := by
  intro w
  refine ⟨decodeWord_wellFormed w, fun r hr => meets_iff_rowNumber hr, ?_, meets_no_row_iff⟩
  refine opcodeMap_numbers_differ.imp_of_mem fun hr hr' hne ⟨h, h'⟩ => hne ?_
  exact Option.some.inj (((meets_iff_rowNumber hr).1 h).symm.trans ((meets_iff_rowNumber hr').1 h'))

/-! ### Encoding a decoded word -/

/-- The instruction is of no row whose decoder ignores bits of the word. -/
def Instr.ReadsEveryBit (i : Instr) : Prop := ∀ k ∈ [1, 2, 7, 19, 24, 25], i.rowNumber ≠ some k

theorem encode_decodeFamily0 (hf : field w 15 12 = 0x0) (h : (decodeFamily0 w).ReadsEveryBit) :
    encode (decodeFamily0 w) = w := by
  revert h
  unfold decodeFamily0
  split
  case h_1 => exact fun h => absurd rfl (h 1 (by decide))
  case h_2 => exact fun h => absurd rfl (h 2 (by decide))
  case h_3 => exact fun _ => ofNNN_fields hf

theorem encode_decodeFamily8 (hf : field w 15 12 = 0x8) : encode (decodeFamily8 w) = w := by
  unfold decodeFamily8
  split
  case h_10 => exact ofNNN_fields hf
  all_goals exact ofNibbles_fields hf ‹_›

theorem encode_decodeFamilyE (hf : field w 15 12 = 0xE) (h : (decodeFamilyE w).ReadsEveryBit) :
    encode (decodeFamilyE w) = w := by
  revert h
  unfold decodeFamilyE
  split
  case h_1 => exact fun h => absurd rfl (h 25 (by decide))
  case h_2 => exact fun h => absurd rfl (h 24 (by decide))
  case h_3 => exact fun _ => ofNNN_fields hf

theorem encode_decodeFamilyF (hf : field w 15 12 = 0xF) : encode (decodeFamilyF w) = w := by
  unfold decodeFamilyF
  split
  case h_10 => exact ofNNN_fields hf
  all_goals exact ofXKK_fields hf ‹_›

/-- Settles O5, family by family: the fields that an instruction keeps make the word again. -/
theorem encodeRestoresFullWords : Obligations.EncodeRestoresFullWords := by
  intro w (h : (decodeWord w).ReadsEveryBit)
  have hlt := field_lt w 15 12
  revert h
  unfold decodeWord
  split
  case h_1 hf => exact encode_decodeFamily0 hf
  case h_2 hf | h_3 hf | h_11 hf | h_12 hf => exact fun _ => ofNNN_fields hf
  case h_4 hf | h_5 hf | h_7 hf | h_8 hf | h_13 hf => exact fun _ => ofXKK_fields hf (lowByte_eq_fieldKK w)
  case h_6 => exact fun h => absurd rfl (h 7 (by decide))
  case h_9 hf => exact fun _ => encode_decodeFamily8 hf
  case h_10 => exact fun h => absurd rfl (h 19 (by decide))
  case h_14 hf => exact fun _ => ofNibbles_fields hf (lowNibble_eq_fieldN w)
  case h_15 hf => exact encode_decodeFamilyE hf
  case h_16 => exact fun _ => encode_decodeFamilyF (by simp only [imp_false] at *; omega)

/-! ### Words from their nibbles, and sample words -/

/-- Settles O3: families 5 and 9 have no sub-code, and families 0 and E read the low nibble only. -/
theorem ignoredBitsDoNotMatter : Obligations.IgnoredBitsDoNotMatter := by
  intro a b c
  refine ⟨?_, ?_, ?_, ?_, fun h0 hE => ?_, ?_, ?_, fun h1 hE => ?_⟩
  · simp [decodeWord]
  · simp [decodeWord]
  · simp [decodeWord, decodeFamily0]
  · simp [decodeWord, decodeFamily0]
  · have hc : c.val ∉ mapped0 := by
      simp only [mapped0, List.mem_cons, List.not_mem_nil, or_false, not_or]
      exact ⟨Fin.val_ne_of_ne h0, Fin.val_ne_of_ne hE⟩
    simp [decodeWord, decodeFamily0_of_not_mem, hc]
  · simp [decodeWord, decodeFamilyE]
  · simp [decodeWord, decodeFamilyE]
  · have hc : c.val ∉ mappedE := by
      simp only [mappedE, List.mem_cons, List.not_mem_nil, or_false, not_or]
      exact ⟨Fin.val_ne_of_ne h1, Fin.val_ne_of_ne hE⟩
    simp [decodeWord, decodeFamilyE_of_not_mem, hc]

/-- Settles O4, by evaluating the decoder on each word. -/
theorem sampleWordsDecode : Obligations.SampleWordsDecode := by
  unfold Obligations.SampleWordsDecode
  decide

end Sys2Proof
end

section
/-! PROOF. The cycle from outside: a cycle of a running machine raises and undoes itself, or completes inside its instruction's
frame and ends with the timer step; and runs of such cycles (spec/40_cycle.md R73 to R79, R83). -/

namespace Sys2Proof.Machine

variable {s t : State} {w : Word} {n : Nat}

/-! ### What a cycle that comes next does -/

/-- A raise in a handler, seen from the state before the advance (R78). -/
theorem State.raised_advance (e : ErrorState) (v : Option Nat) (s : State) : s.advance.raised e v = s.raiseAt s.pc e v :=
  Host.Outcome.next.inj (raise_advance s e v)

/-- A cycle of a running machine raises, at the fetch or in the handler, or its handler keeps the instruction's frame and the
timer step follows (R72 to R78). -/
theorem cycle_step_cases (hrun : s.Running) (hnext : s.CycleNext) (h : step s = .next t) :
    (∃ e v, e ≠ .ok ∧ t = s.raiseAt s.pc e v) ∨
    (∃ w u, s.wordAt s.pc = some w ∧ exec (decodeWord w) s.advance = .next u ∧ ExecFrame (decodeWord w) s.advance u ∧
      t = u.timerStep) := by
  rw [step_of_cycleNext hnext, cycle_of_running hrun] at h
  obtain ⟨a, -, hraise⟩ | ⟨w, u, hfetch, hexec, hend⟩ := runCycle_cases s
  · exact .inl ⟨.addressOutOfRange, some a, by decide, Host.Outcome.next.inj (h.symm.trans hraise)⟩
  · obtain rfl : t = u.endCycle := Host.Outcome.next.inj (h.symm.trans hend)
    obtain ⟨e, v, he, rfl⟩ | hframe := exec_cases hexec
    · exact .inl ⟨e, v, he.1, by rw [State.endCycle_of_error _ he.1, State.raised_advance]⟩
    · obtain ⟨-, herr, -⟩ := hframe.untouched
      exact .inr ⟨w, u, State.wordAt_of_fetchAt s hfetch, hexec, hframe, State.endCycle_of_ok u (herr.trans hrun.1)⟩

/-- A cycle that ends without an error completed its handler (R77). -/
theorem completed_of_err_ok (hrun : s.Running) (hnext : s.CycleNext) (h : step s = .next t) (hok : t.err = .ok) :
    ∃ w u, s.wordAt s.pc = some w ∧ exec (decodeWord w) s.advance = .next u ∧ ExecFrame (decodeWord w) s.advance u ∧
      t = u.timerStep := by
  obtain ⟨e, v, he, rfl⟩ | hdone := cycle_step_cases hrun hnext h
  · exact absurd hok he
  · exact hdone

/-- A cycle that ends with an error raised it (R78). -/
theorem raised_of_err_ne_ok (hrun : s.Running) (hnext : s.CycleNext) (h : step s = .next t) (herr : t.err ≠ .ok) :
    ∃ e v, t = s.raiseAt s.pc e v := by
  obtain ⟨e, v, -, ht⟩ | ⟨w, u, -, -, hframe, rfl⟩ := cycle_step_cases hrun hnext h
  · exact ⟨e, v, ht⟩
  · obtain ⟨-, hkept, -⟩ := hframe.untouched
    exact absurd (hkept.trans hrun.1) herr

/-- A cycle without an error leaves the machine running, with a cycle next. -/
theorem running_of_cycle_step (hrun : s.Running) (hnext : s.CycleNext) (h : step s = .next t) (hok : t.err = .ok) :
    t.Running ∧ t.CycleNext := by
  obtain ⟨w, u, -, -, hframe, rfl⟩ := completed_of_err_ok hrun hnext h hok
  obtain ⟨-, -, -, hphase, -, hops⟩ := hframe.untouched
  exact ⟨⟨hok, hphase.trans hrun.2⟩, hops.trans hnext⟩

/-- Settles O10: both kinds of raise answer the state before the cycle with `err` and `fault` written. -/
theorem raisingCycleUndoesItself : Obligations.RaisingCycleUndoesItself := by
  intro s t hrun hnext h herr
  obtain ⟨e, v, rfl⟩ := raised_of_err_ne_ok hrun hnext h herr
  exact ⟨v, rfl⟩

/-! ### The timers -/

theorem writesDT_iff {i : Instr} : Instr.writesDT i ↔ ∃ x, i = .ldDT x := by
  cases i <;> simp [Instr.writesDT]

theorem writesST_iff {i : Instr} : Instr.writesST i ↔ ∃ x, i = .ldST x := by
  cases i <;> simp [Instr.writesST]

/-- Settles O13: a raise leaves the timers, and the timer step acts on what the handler wrote or left. -/
theorem timerStepEveryCycle : Obligations.TimerStepEveryCycle := by
  intro s t hrun hnext h
  refine ⟨fun herr => ?_, fun hok => ?_⟩
  · obtain ⟨e, v, rfl⟩ := raised_of_err_ne_ok hrun hnext h herr
    exact ⟨rfl, rfl⟩
  · obtain ⟨w, u, hword, hexec, hframe, rfl⟩ := completed_of_err_ok hrun hnext h hok
    refine ⟨w, hword, fun x hx => ?_, fun hother => ?_, fun x hx => ?_, fun hother => ?_⟩
    · rw [hx] at hexec
      obtain rfl : s.advance.writeDT (s.readV x) = u := Host.Outcome.next.inj hexec
      exact countDown_toNat (s.readV x)
    · have hkept : u.DT = s.DT := hframe.delay fun hw => (writesDT_iff.1 hw).elim hother
      rw [State.timerStep_DT, countDown_toNat, hkept]
    · rw [hx] at hexec
      obtain rfl : s.advance.writeST (s.readV x) = u := Host.Outcome.next.inj hexec
      exact countDown_toNat (s.readV x)
    · have hkept : u.ST = s.ST := hframe.sound fun hw => (writesST_iff.1 hw).elim hother
      rw [State.timerStep_ST, countDown_toNat, hkept]

/-! ### Runs of cycles -/

/-- A run goes on from the state its first step answers. -/
theorem run_succ_of_step {M : Host.Core} {s t : M.State} (h : M.step s = .next t) (n : Nat) :
    M.run (n + 1) s = M.run n t := by
  simp only [Host.Core.run, h]

/-- The first step of a run that answers a next state answers one. -/
theorem run_succ_next {M : Host.Core} {s t : M.State} {n : Nat} (h : M.run (n + 1) s = .next t) :
    ∃ u, M.step s = .next u ∧ M.run n u = .next t := by
  simp only [Host.Core.run] at h
  split at h
  next u hu => exact ⟨u, hu, h⟩
  · cases h
  · cases h

/-- No run clears an error (R32). -/
theorem err_ok_of_run (h : Host.Core.run Sys2Proof.core n s = .next t) (hok : t.err = .ok) : s.err = .ok := by
  induction n generalizing s with
  | zero =>
    obtain rfl := Host.Outcome.next.inj h
    exact hok
  | succ n ih =>
    obtain ⟨u, hstep, hrest⟩ := run_succ_next h
    by_contra hbad
    obtain ⟨hkept, -⟩ := errorIsSticky s u hbad hstep
    exact hbad (hkept.symm.trans (ih hrest))

/-- Settles O14, by induction over the cycles: the first one lowers `DT` by one and leaves the machine running. -/
theorem delayTimerCountsCycles : Obligations.DelayTimerCountsCycles := by
  intro n
  induction n with
  | zero =>
    intro s t _ _ h _ _
    obtain rfl := Host.Outcome.next.inj h
    rfl
  | succ n ih =>
    intro s t hrun hnext h hok hnone
    obtain ⟨u, hstep, hrest⟩ := run_succ_next h
    have huok : u.err = .ok := err_ok_of_run hrest hok
    obtain ⟨hurun, hunext⟩ := running_of_cycle_step hrun hnext hstep huok
    have hfirst : u.DT.toNat = s.DT.toNat - 1 := by
      obtain ⟨w, hword, -, hcount, -⟩ := (timerStepEveryCycle s u hrun hnext hstep).2 huok
      exact hcount fun x => hnone 0 s w x (Nat.succ_pos n) rfl hword
    have hlater : t.DT.toNat = u.DT.toNat - n := ih u t hurun hunext hrest hok fun k v w x hk hv =>
      hnone (k + 1) v w x (Nat.succ_lt_succ hk) ((run_succ_of_step hstep k).trans hv)
    omega

/-! ### Idle loops -/

/-- The state with both timers lowered by `n`, down to zero: what `n` timer steps leave (R76). -/
def State.lowerTimers (n : Nat) (s : State) : State :=
  { s with DT := BitVec.ofNat 8 (s.DT.toNat - n), ST := BitVec.ofNat 8 (s.ST.toNat - n) }

theorem State.lowerTimers_zero (s : State) : s.lowerTimers 0 = s := by
  simp [State.lowerTimers]

theorem State.lowerTimers_timerStep (n : Nat) (s : State) : s.timerStep.lowerTimers n = s.lowerTimers (n + 1) := by
  have hcount (b : Byte) : (countDown b).toNat - n = b.toNat - (n + 1) := by
    rw [countDown_toNat]
    omega
  simp only [State.lowerTimers, State.timerStep, hcount]

/-- Where every state of a class, closed under the timer step, steps by the timer step alone, a run of `n` steps only lowers
the timers by `n`. -/
theorem run_of_idle {Idle : State → Prop} (hidle : ∀ s, Idle s → step s = .next s.timerStep ∧ Idle s.timerStep)
    (n : Nat) (hs : Idle s) : Host.Core.run Sys2Proof.core n s = .next (s.lowerTimers n) := by
  induction n generalizing s with
  | zero => exact congrArg Host.Outcome.next (State.lowerTimers_zero s).symm
  | succ n ih =>
    obtain ⟨hstep, hs'⟩ := hidle s hs
    calc Host.Core.run Sys2Proof.core (n + 1) s
        = Host.Core.run Sys2Proof.core n s.timerStep := run_succ_of_step hstep n
      _ = .next (s.timerStep.lowerTimers n) := ih hs'
      _ = .next (s.lowerTimers (n + 1)) := by rw [State.lowerTimers_timerStep]

/-- A running machine's next cycle fetches `JP nnn` at the address `nnn` (R83). -/
structure State.SelfJump (w : Word) (nnn : BitVec 12) (s : State) : Prop where
  running : s.Running
  cycleNext : s.CycleNext
  word : s.wordAt s.pc = some w
  jump : decodeWord w = .jp nnn
  ownAddress : nnn.toNat = s.pc.toNat

/-- A jump to its own address undoes the advance, so its cycle is the timer step (R83, R86). -/
theorem State.SelfJump.step_eq {nnn : BitVec 12} (h : s.SelfJump w nnn) : step s = .next s.timerStep := by
  have htarget : addressOf nnn = s.pc := BitVec.eq_of_toNat_eq ((addressOf_toNat nnn).trans h.ownAddress)
  have hexec : exec (decodeWord w) s.advance = .next s := by
    calc exec (decodeWord w) s.advance
        = .next (s.advance.jump (addressOf nnn)) := by rw [h.jump]; rfl
      _ = .next s := by rw [htarget]; rfl
  rw [step_of_word h.running h.cycleNext h.word hexec, State.endCycle_of_ok s h.running.1]

/-- The timer step leaves the jump where it is. -/
theorem State.SelfJump.timerStep {nnn : BitVec 12} (h : s.SelfJump w nnn) : s.timerStep.SelfJump w nnn :=
  ⟨h.running, h.cycleNext, h.word, h.jump, h.ownAddress⟩

/-- Settles O15: each cycle of the jump is the timer step, so `n` of them lower the timers by `n`. -/
theorem selfJumpIsIdle : Obligations.SelfJumpIsIdle := by
  intro n s w nnn hrun hnext hword hjump haddress
  exact run_of_idle (fun s (h : s.SelfJump w nnn) => ⟨h.step_eq, h.timerStep⟩) n ⟨hrun, hnext, hword, hjump, haddress⟩

/-! ### The decoded instruction and the unmapped slots -/

/-- Settles O6: two bytes decode to their word's instruction, and the handler's answer ends the cycle. -/
theorem stepRunsDecodedInstruction : Obligations.StepRunsDecodedInstruction := by
  intro s i hrun hnext hin hdecode
  obtain ⟨rfl, -⟩ := Prod.mk.inj (Except.ok.inj hdecode)
  have hword := State.wordAt_of_fetchAt s (State.fetchAt_inside s hin)
  obtain ⟨t, hexec⟩ := exec_next (decodeWord (wordOfBytes (s.readByte s.pc.toNat) (s.readByte (s.pc.toNat + 1)))) s.advance
  have hstep := step_of_word hrun hnext hword hexec
  refine ⟨t, hexec, fun hok => ?_, fun herr => ?_⟩
  · rw [hstep, State.endCycle_of_ok t hok]
    rfl
  · rw [hstep, State.endCycle_of_error t herr]

/-- Under `Noop` an unmapped slot does nothing (R79). -/
theorem unmappedSlot_of_noop (h : s.cfg.unmappedPolicy = .noop) : unmappedSlot s = .next s := by
  simp only [unmappedSlot, h]

/-- Under `Fault` an unmapped slot raises, without a value (R79). -/
theorem unmappedSlot_of_fault (h : s.cfg.unmappedPolicy = .fault) :
    unmappedSlot s = .next (s.raised .undefinedInstruction none) := by
  simp only [unmappedSlot, h, raise_eq_raised]

/-- Settles O49: the four families share one handler. -/
theorem unmappedSlots : Obligations.UnmappedSlots := by
  intro low s i hi
  have hexec : exec i s = unmappedSlot s := by
    simp only [List.mem_cons, List.not_mem_nil, or_false] at hi
    obtain rfl | rfl | rfl | rfl := hi <;> rfl
  rw [hexec]
  exact ⟨unmappedSlot_of_noop, unmappedSlot_of_fault⟩

end Sys2Proof.Machine
end

section
/-! PROOF. No instruction but `CALL` and `RET` reads or writes the call stack: every other handler commutes with replacing it
(spec/41_control_flow.md R93, spec/10_state.md R24). -/

namespace Sys2Proof.Machine

variable {i : Instr} {s : State} {stack : Vector Word 16} {sp : Fin 17}

/-! ### Replacing the call stack -/

/-- The same machine with another call stack and pointer. -/
def State.withStack (stack : Vector Word 16) (sp : Fin 17) (s : State) : State := { s with S := stack, SP := sp }

@[simp] theorem State.withStack_I : (s.withStack stack sp).I = s.I := rfl
@[simp] theorem State.withStack_cfg : (s.withStack stack sp).cfg = s.cfg := rfl

/-- A machine given the stack it has is itself. -/
@[simp] theorem State.withStack_self (s : State) : s.withStack s.S s.SP = s := rfl

@[simp] theorem State.drawnCells_withStack (x y : Reg) (n : Fin 16) :
    (s.withStack stack sp).drawnCells x y n = s.drawnCells x y n := rfl

@[simp] theorem State.keyOperand_withStack (x : Reg) : (s.withStack stack sp).keyOperand x = s.keyOperand x := rfl

@[simp] theorem State.firstKey_withStack : (s.withStack stack sp).firstKey = s.firstKey := rfl

/-! ### Operations commute with replacing the stack -/

theorem next_skipIf_withStack (s : State) (c : Bool) :
    Host.Outcome.next ((s.withStack stack sp).skipIf c) = mapNext (State.withStack stack sp) (.next (s.skipIf c)) := by
  cases c <;> rfl

theorem next_logicFlag_withStack (s : State) :
    Host.Outcome.next (s.withStack stack sp).logicFlag = mapNext (State.withStack stack sp) (.next s.logicFlag) :=
  congrArg Host.Outcome.next (Eq.symm (apply_ite (State.withStack stack sp) (s.cfg.logicResetsVF = true) _ _))

theorem State.writeByte_withStack (s : State) (a : Nat) (v : Byte) :
    (s.withStack stack sp).writeByte a v = (s.writeByte a v).withStack stack sp :=
  Eq.symm (apply_ite (State.withStack stack sp) (a < memSize) _ _)

theorem State.storeBytes_withStack (s : State) (a : Nat) (bs : List Byte) :
    (s.withStack stack sp).storeBytes a bs = (s.storeBytes a bs).withStack stack sp := by
  induction bs generalizing a s with
  | nil => rfl
  | cons v bs ih => rw [State.storeBytes, State.writeByte_withStack, ih, State.storeBytes]

theorem unmappedSlot_withStack (s : State) :
    unmappedSlot (s.withStack stack sp) = mapNext (State.withStack stack sp) (unmappedSlot s) := by
  simp only [unmappedSlot, State.withStack_cfg]
  split <;> rfl

/-! ### Handlers -/

/-- A handler other than `CALL`'s and `RET`'s does the same whatever the stack holds, and leaves it: the cases written out
branch on the state, in the others the two runs are the same writes. -/
theorem exec_withStack (hi : ¬ Instr.writesStack i) (s : State) :
    exec i (s.withStack stack sp) = mapNext (State.withStack stack sp) (exec i s) := by
  cases i with
  | ret => exact absurd trivial hi
  | call nnn => exact absurd trivial hi
  | seImm x kk => exact next_skipIf_withStack s _
  | sneImm x kk => exact next_skipIf_withStack s _
  | seReg x y => exact next_skipIf_withStack s _
  | sneReg x y => exact next_skipIf_withStack s _
  | orReg x y => exact next_logicFlag_withStack (s.writeV x _)
  | andReg x y => exact next_logicFlag_withStack (s.writeV x _)
  | xorReg x y => exact next_logicFlag_withStack (s.writeV x _)
  | drw x y n =>
    simp only [exec, execDrw, State.withStack_I, State.drawnCells_withStack]
    split
    · rfl
    · split <;> rfl
  | skp x =>
    simp only [exec, execSkp, State.keyOperand_withStack]
    split
    · exact next_skipIf_withStack s _
    · rfl
  | sknp x =>
    simp only [exec, execSknp, State.keyOperand_withStack]
    split
    · exact next_skipIf_withStack s _
    · rfl
  | ldK x =>
    simp only [exec, execLdK, State.firstKey_withStack]
    split <;> rfl
  | ldB x =>
    simp only [exec, execLdB, State.withStack_I]
    split
    · rfl
    · exact congrArg Host.Outcome.next (State.storeBytes_withStack s _ _)
  | stRegs x =>
    simp only [exec, execStRegs, State.withStack_I]
    split
    · rfl
    · exact congrArg (fun u : State => Host.Outcome.next (u.writeI (s.blockNextI x))) (State.storeBytes_withStack s _ _)
  | ldRegs x =>
    simp only [exec, execLdRegs, State.withStack_I]
    split <;> rfl
  | unmapped0 low => exact unmappedSlot_withStack s
  | unmapped8 low => exact unmappedSlot_withStack s
  | unmappedE low => exact unmappedSlot_withStack s
  | unmappedF low => exact unmappedSlot_withStack s
  | _ => rfl

/-- Settles O21: the handler commutes with replacing the stack, and replacing it by itself says that it is left. -/
theorem stackIsPrivateToCallAndRet : Obligations.StackIsPrivateToCallAndRet := by
  intro i s t stack sp hi h
  have hany (stack : Vector Word 16) (sp : Fin 17) :
      exec i (s.withStack stack sp) = .next (t.withStack stack sp) := by
    rw [exec_withStack hi, h, mapNext]
  have hself : t = t.withStack s.S s.SP := Host.Outcome.next.inj (h.symm.trans (hany s.S s.SP))
  exact ⟨(congrArg State.S hself :), (congrArg State.SP hself :), hany stack sp⟩

end Sys2Proof.Machine
end

section
/-! PROOF. Control transfer: what the stack, jump and skip handlers answer, and a `CALL` undone by the `RET` at its target
(spec/41_control_flow.md R85 to R92). -/

namespace Sys2Proof.Machine

variable {s : State}

/-! ### The call stack -/

/-- `RET` on an empty stack raises (R85). -/
theorem exec_ret_of_empty (h : s.SP.val = 0) : exec .ret s = .next (s.raised .stackUnderflow (some 0)) :=
  dif_pos h

/-- `RET` pops where an address is held (R85). -/
theorem exec_ret_of_not_empty (h : s.SP.val ≠ 0) : exec .ret s = .next (s.pop h) :=
  dif_neg h

/-- `CALL` on a full stack raises (R87). -/
theorem exec_call_of_full (nnn : BitVec 12) (h : s.SP.val = 16) :
    exec (.call nnn) s = .next (s.raised .stackOverflow (some 16)) := by
  have hfull : ¬ s.SP.val < 16 := by omega
  rw [← h]
  exact dif_neg hfull

/-- `CALL` pushes and jumps where a slot is free (R87). -/
theorem exec_call_of_not_full (nnn : BitVec 12) (h : s.SP.val < 16) :
    exec (.call nnn) s = .next ((s.push s.pc h).jump (addressOf nnn)) :=
  dif_pos h

/-- A pop sets the counter to the slot under the pointer (R85). -/
theorem State.pop_pc_eq_slot (h : s.SP.val ≠ 0) : s.S[s.SP.val - 1]? = some (s.pop h).pc :=
  Vector.getElem?_eq_getElem _

/-- A push fills the slot the pointer named (R87). -/
theorem State.push_slot_same (w : Word) (h : s.SP.val < 16) : (s.push w h).S[s.SP.val]? = some w :=
  Vector.getElem?_set_self h

/-- A push leaves every other slot (R87). -/
theorem State.push_slot_ne (w : Word) (h : s.SP.val < 16) {j : Nat} (hj : j ≠ s.SP.val) :
    (s.push w h).S[j]? = s.S[j]? :=
  Vector.getElem?_set_ne h hj.symm

/-- Settles O24: the two answers of the handler, the popped counter read off its slot. -/
theorem retPopsOrUnderflows : Obligations.RetPopsOrUnderflows := by
  refine ⟨encodes_ret, fun s => ⟨exec_ret_of_empty, fun hne => ?_⟩⟩
  exact ⟨s.pop hne, exec_ret_of_not_empty hne, rfl, State.pop_pc_eq_slot hne, rfl, fun _ => rfl⟩

/-- Settles O25: the two answers of the handler, the pushed slot and the others apart. -/
theorem callPushesOrOverflows : Obligations.CallPushesOrOverflows := by
  refine ⟨encodes_call, fun nnn s => ⟨exec_call_of_full nnn, fun hlt => ?_⟩⟩
  exact ⟨_, exec_call_of_not_full nnn hlt, State.push_slot_same s.pc hlt, fun j => State.push_slot_ne s.pc hlt, rfl,
    addressOf_toNat nnn, rfl, fun _ => rfl⟩

/-! ### A `CALL` and the `RET` at its target -/

/-- The state after the cycle of a `CALL nnn` that pushes (R76, R87). -/
def State.afterCall (s : State) (nnn : BitVec 12) (h : s.SP.val < 16) : State :=
  ((s.advance.push (s.pc + 2) h).jump (addressOf nnn)).timerStep

/-- The cycle of a `CALL nnn` with a free slot pushes and jumps (R87). -/
theorem step_of_call {w : Word} {nnn : BitVec 12} (hrun : s.Running) (hnext : s.CycleNext) (hlt : s.SP.val < 16)
    (hword : s.wordAt s.pc = some w) (hw : decodeWord w = .call nnn) : step s = .next (s.afterCall nnn hlt) := by
  have hexec : exec (decodeWord w) s.advance = .next ((s.advance.push (s.pc + 2) hlt).jump (addressOf nnn)) := by
    rw [hw]
    exact exec_call_of_not_full (s := s.advance) nnn hlt
  exact (step_of_word hrun hnext hword hexec).trans (congrArg Host.Outcome.next (State.endCycle_of_ok _ hrun.1))

/-- The cycle of a `RET` pops where an address is held (R85). -/
theorem step_of_ret {w : Word} (hrun : s.Running) (hnext : s.CycleNext) (hne : s.SP.val ≠ 0)
    (hword : s.wordAt s.pc = some w) (hw : decodeWord w = .ret) : step s = .next (s.advance.pop hne).timerStep := by
  have hexec : exec (decodeWord w) s.advance = .next (s.advance.pop hne) := by
    rw [hw]
    exact exec_ret_of_not_empty (s := s.advance) hne
  exact (step_of_word hrun hnext hword hexec).trans (congrArg Host.Outcome.next (State.endCycle_of_ok _ hrun.1))

/-- The pop after a `CALL` takes the counter from the slot the `CALL` filled (R85, R87). -/
theorem State.pop_afterCall_pc (nnn : BitVec 12) (hlt : s.SP.val < 16) (hne : (s.afterCall nnn hlt).SP.val ≠ 0) :
    ((s.afterCall nnn hlt).advance.pop hne).pc = s.pc + 2 := by
  have hpopped := State.pop_pc_eq_slot (s := (s.afterCall nnn hlt).advance) hne
  have hpushed := State.push_slot_same (s := s.advance) (s.pc + 2) hlt
  exact Option.some.inj (hpopped.symm.trans hpushed)

/-- Settles O26: the `CALL` leaves a running machine at its target with one more slot in use, and the `RET` takes that slot
back. -/
theorem callThenRetResumes : Obligations.CallThenRetResumes := by
  intro s w w' nnn hrun hnext hlt hword hw hword' hw'
  have hne : (s.afterCall nnn hlt).SP.val ≠ 0 := Nat.succ_ne_zero s.SP.val
  have hret := step_of_ret (s := s.afterCall nnn hlt) hrun hnext hne hword' hw'
  exact ⟨s.afterCall nnn hlt, _, step_of_call hrun hnext hlt hword hw, hret, State.pop_afterCall_pc nnn hlt hne,
    rfl, rfl, rfl, rfl, rfl⟩

/-! ### Jumps -/

/-- An address and a byte never reach 2^16, so their sum is not reduced (R88). -/
theorem addressOf_add_toNat (nnn : BitVec 12) (b : Byte) :
    (addressOf nnn + b.zeroExtend 16).toNat = nnn.toNat + b.toNat := by
  have hnnn := nnn.isLt
  have hb := b.isLt
  have hext : (b.zeroExtend 16).toNat = b.toNat := BitVec.toNat_setWidth_of_le (by decide)
  rw [BitVec.toNat_add, addressOf_toNat, hext]
  omega

theorem State.jumpOffset_of_v0 (x : Reg) (h : s.cfg.jumpOffsetReg = .v0) : s.jumpOffset x = s.readV 0 := by
  simp only [State.jumpOffset, h]

theorem State.jumpOffset_of_vx (x : Reg) (h : s.cfg.jumpOffsetReg = .vx) : s.jumpOffset x = s.readV x := by
  simp only [State.jumpOffset, h]

/-- Settles O27: both handlers only write the counter, and the target of `JP V0` is the unreduced sum. -/
theorem jumpTargets : Obligations.JumpTargets := by
  refine ⟨encodes_jp, encodes_jpV0, fun x nnn s => ⟨?_, ?_⟩⟩
  · exact ⟨s.jump (addressOf nnn), rfl, addressOf_toNat nnn, rfl, fun _ => rfl⟩
  · have htarget := addressOf_add_toNat nnn (s.jumpOffset x)
    refine ⟨s.jump (addressOf nnn + (s.jumpOffset x).zeroExtend 16), rfl, fun hv0 => ?_, fun hvx => ?_, rfl, fun _ => rfl⟩
    · rw [State.jump_pc, htarget, State.jumpOffset_of_v0 x hv0]
    · rw [State.jump_pc, htarget, State.jumpOffset_of_vx x hvx]

/-! ### Skips -/

/-- A skip on equal bytes (R82, R89, R91). -/
theorem State.skipIf_beq (s : State) (a b : Byte) : s.skipIf (a == b) = if a = b then s.advance else s := by
  simp only [State.skipIf, beq_iff_eq]

/-- A skip on different bytes (R82, R90, R92). -/
theorem State.skipIf_bne (s : State) (a b : Byte) : s.skipIf (a != b) = if a = b then s else s.advance := by
  simp only [State.skipIf, bne_iff_ne, ite_not]

/-- Settles O28: each of the four handlers is one of the two skips. -/
theorem conditionalSkips : Obligations.ConditionalSkips := by
  refine ⟨encodes_seImm, encodes_sneImm, encodes_seReg, encodes_sneReg, fun x y kk s => ⟨?_, ?_, ?_, ?_⟩⟩
  · exact congrArg Host.Outcome.next (State.skipIf_beq s (s.readV x) kk)
  · exact congrArg Host.Outcome.next (State.skipIf_bne s (s.readV x) kk)
  · exact congrArg Host.Outcome.next (State.skipIf_beq s (s.readV x) (s.readV y))
  · exact congrArg Host.Outcome.next (State.skipIf_bne s (s.readV x) (s.readV y))

end Sys2Proof.Machine
end

section
/-! PROOF. Register load, arithmetic and logic: a handler writes its result and then, where it has one, its flag, so its register
frame is composed of those writes and its values are facts about bytes (spec/42_load_arith.md R95 to R106). -/

namespace Sys2Proof.Machine

variable {s t : State} {x y : Reg} {dest : Reg → Prop}

/-! ### What the writes leave -/

theorem RegisterFrame.refl (s : State) : RegisterFrame dest s s := ⟨fun _ _ => rfl, rfl, fun _ => rfl⟩

theorem RegisterFrame.writeV (h : RegisterFrame dest s t) (hx : dest x) (b : Byte) : RegisterFrame dest s (t.writeV x b) where
  registers r hr := by
    have hne : r ≠ x := fun e => hr (e ▸ hx)
    rw [State.readV_writeV_ne _ _ hne, h.registers r hr]
  rest := congrArg (State.writeV x b) h.rest
  memory := h.memory

theorem RegisterFrame.logicFlag (h : RegisterFrame dest s t) (hf : t.cfg.logicResetsVF = true → dest vf) :
    RegisterFrame dest s t.logicFlag := by
  unfold State.logicFlag
  split
  next hc => exact h.writeV (hf hc) _
  next => exact h

/-- A single result changes its register alone (R95 to R97). -/
theorem registerFrame_writeV (s : State) (x : Reg) (b : Byte) : RegisterFrame (· = x) s (s.writeV x b) :=
  RegisterFrame.writeV (dest := (· = x)) (.refl s) rfl b

/-- A result and then a flag change the result's register and `VF` alone (R101 to R105). -/
theorem registerFrame_writeV_writeFlag (s : State) (x : Reg) (b : Byte) (c : Bool) :
    RegisterFrame (fun r => r = x ∨ r = vf) s ((s.writeV x b).writeFlag c) :=
  .writeV (.writeV (.refl s) (.inl rfl) b) (.inr rfl) (flagByte c)

/-- A result and then the logic operations' flag are what R98 to R100 say: `VF` reads 0 where the parameter clears it, and the
result stands wherever it is not cleared. -/
theorem logicResult_writeV_logicFlag (s : State) (x : Reg) (b : Byte) : LogicResult b x s (s.writeV x b).logicFlag := by
  refine ⟨fun hc => ?_, fun hkept => ?_, .logicFlag (.writeV (.refl s) (.inl rfl) b) fun hc => .inr ⟨hc, rfl⟩⟩
  · rw [State.readV_logicFlag, if_pos ⟨hc, rfl⟩]
  · have hnot : ¬ (s.cfg.logicResetsVF = true ∧ x = vf) := by
      rintro ⟨hc, hx⟩
      rcases hkept with hfalse | hne
      · exact Bool.noConfusion (hc.symm.trans hfalse)
      · exact hne hx
    rw [State.readV_logicFlag, State.writeV_cfg, if_neg hnot, State.readV_writeV_same]

/-! ### Operands and results -/

/-- The source of a shift is the register that `shiftSource` names (R103, R105). -/
theorem State.shiftOperand_eq {src : Byte}
    (h : (s.cfg.shiftSource = .vx ∧ src = s.readV x) ∨ (s.cfg.shiftSource = .vy ∧ src = s.readV y)) :
    s.shiftOperand x y = src := by
  obtain ⟨hvx, rfl⟩ | ⟨hvy, rfl⟩ := h
  · simp only [State.shiftOperand, hvx]
  · simp only [State.shiftOperand, hvy]

/-- A difference modulo 256, with the minuend first as R102 and R104 write it. -/
theorem byte_sub_toNat (a b : Byte) : (a - b).toNat = (a.toNat + 256 - b.toNat) % 256 := by
  have hb := b.isLt
  rw [BitVec.toNat_sub]
  omega

theorem byte_shiftRight_one_toNat (a : Byte) : (a >>> 1).toNat = a.toNat / 2 := Nat.shiftRight_eq_div_pow a.toNat 1

theorem byte_shiftLeft_one_toNat (a : Byte) : (a <<< 1).toNat = a.toNat * 2 % 256 := by
  rw [BitVec.toNat_shiftLeft, Nat.shiftLeft_eq]

/-! ### Flags -/

/-- A flag is 1 exactly where its condition holds (R21). -/
theorem flagByte_decide (p : Prop) [Decidable p] : flagByte (decide p) = if p then 1 else 0 := by
  simp only [flagByte, decide_eq_true_eq]

/-- `SHR`'s flag is bit 0 of the source (R103). -/
theorem flagByte_shrFlag_toNat (a : Byte) : (flagByte (shrFlag a)).toNat = a.toNat % 2 := by
  simp only [flagByte_toNat, shrFlag, decide_eq_true_eq]
  split <;> omega

/-- `SHL`'s flag is bit 7 of the source (R105). -/
theorem flagByte_shlFlag_toNat (a : Byte) : (flagByte (shlFlag a)).toNat = a.toNat / 128 := by
  have ha := a.isLt
  simp only [flagByte_toNat, shlFlag, decide_eq_true_eq]
  split <;> omega

/-! ### The obligations -/

/-- Settles O29: each of the three handlers is one register write. -/
theorem loadsAndAddImmediate : Obligations.LoadsAndAddImmediate := by
  refine ⟨encodes_ldImm, encodes_addImm, encodes_ldReg, fun x y kk s => ⟨?_, ?_, ?_⟩⟩
  · exact ⟨_, rfl, State.readV_writeV_same s x kk, registerFrame_writeV s x kk⟩
  · refine ⟨_, rfl, ?_, registerFrame_writeV s x (s.readV x + kk)⟩
    rw [State.readV_writeV_same, BitVec.toNat_add]
  · exact ⟨_, rfl, State.readV_writeV_same s x (s.readV y), registerFrame_writeV s x (s.readV y)⟩

/-- Settles O30: the three handlers differ in the result alone. -/
theorem logicOperations : Obligations.LogicOperations :=
  ⟨encodes_orReg, encodes_andReg, encodes_xorReg, fun x y s =>
    ⟨⟨_, rfl, logicResult_writeV_logicFlag s x (s.readV x ||| s.readV y)⟩,
      ⟨_, rfl, logicResult_writeV_logicFlag s x (s.readV x &&& s.readV y)⟩,
      ⟨_, rfl, logicResult_writeV_logicFlag s x (s.readV x ^^^ s.readV y)⟩⟩⟩

/-- Settles O31: the sum, and the carry over it. -/
theorem addCarry : Obligations.AddCarry := by
  refine ⟨encodes_addReg, fun x y s => ⟨_, rfl, fun hx => ?_, ?_, registerFrame_writeV_writeFlag s x _ _⟩⟩
  · rw [State.readV_writeV_writeFlag_dest s _ _ hx, BitVec.toNat_add]
  · rw [State.readV_writeFlag_vf, carryFlag, flagByte_decide]

/-- Settles O32: the difference, and the comparison over it. -/
theorem subtractNotBorrow : Obligations.SubtractNotBorrow := by
  refine ⟨encodes_sub, fun x y s => ⟨_, rfl, fun hx => ?_, ?_, registerFrame_writeV_writeFlag s x _ _⟩⟩
  · rw [State.readV_writeV_writeFlag_dest s _ _ hx, byte_sub_toNat]
  · rw [State.readV_writeFlag_vf, subFlag, flagByte_decide]

/-- Settles O33: the reversed difference, and the comparison that the parameter names. -/
theorem reverseSubtractNotBorrow : Obligations.ReverseSubtractNotBorrow := by
  refine ⟨encodes_subn, fun x y s =>
    ⟨_, rfl, fun hx => ?_, fun hgt => ?_, fun hge => ?_, registerFrame_writeV_writeFlag s x _ _⟩⟩
  · rw [State.readV_writeV_writeFlag_dest s _ _ hx, byte_sub_toNat]
  · rw [State.readV_writeFlag_vf, hgt, subnFlag, flagByte_decide]
  · rw [State.readV_writeFlag_vf, hge, subnFlag, flagByte_decide]

/-- Settles O34: the shifted source, and the bit it lost over it. -/
theorem shiftsReportTheLostBit : Obligations.ShiftsReportTheLostBit := by
  refine ⟨encodes_shr, encodes_shl, fun x y s src hsrc => ?_⟩
  obtain rfl : s.shiftOperand x y = src := State.shiftOperand_eq hsrc
  refine ⟨⟨_, rfl, fun hx => ?_, ?_, registerFrame_writeV_writeFlag s x _ _⟩,
    ⟨_, rfl, fun hx => ?_, ?_, registerFrame_writeV_writeFlag s x _ _⟩⟩
  · rw [State.readV_writeV_writeFlag_dest s _ _ hx, byte_shiftRight_one_toNat]
  · rw [State.readV_writeFlag_vf, flagByte_shrFlag_toNat]
  · rw [State.readV_writeV_writeFlag_dest s _ _ hx, byte_shiftLeft_one_toNat]
  · rw [State.readV_writeFlag_vf, flagByte_shlFlag_toNat]

/-- Settles O35: the masked byte goes to `Vx` in a state that differs by the draw alone. -/
theorem randomByteMasked : Obligations.RandomByteMasked := by
  refine ⟨encodes_rnd, fun x kk s =>
    ⟨s.drawByte.2.writeV x (s.drawByte.1 &&& kk), rfl, ?_, ?_, rfl, fun r hr => ?_, rfl, fun _ => rfl⟩⟩
  · exact State.readV_writeV_same s.drawByte.2 x _
  · rw [State.readV_writeV_same, BitVec.and_assoc, BitVec.and_not_self]
    exact BitVec.and_zero
  · exact State.readV_writeV_ne s.drawByte.2 _ hr

end Sys2Proof.Machine
end

section
/-! PROOF. The index register and the memory instructions: a block is checked before anything is written, so a handler that
accesses one either raises at the lowest byte outside the space or makes the whole access (spec/43_index_memory.md R107 to
R112). -/

namespace Sys2Proof.Machine

variable {s t : State} {x : Reg}

/-! ### Blocks outside the space -/

/-- A block whose last byte, `n` above its base, lies outside the space faults at its lowest byte there (R124). -/
theorem blockFault_outside {base n : Nat} (h : memSize ≤ base + n) : blockFault base (n + 1) = some (max base memSize) :=
  blockFault_eq_some.2 ⟨Nat.succ_pos n, Nat.lt_succ_of_le h, rfl⟩

theorem exec_ldB_outside (h : memSize ≤ s.I.toNat + 2) :
    exec (.ldB x) s = .next (s.raised .addressOutOfRange (some (max s.I.toNat memSize))) := by
  simp only [exec, execLdB, blockFault_outside h, raise_eq_raised]

theorem exec_stRegs_outside (h : memSize ≤ s.I.toNat + x.val) :
    exec (.stRegs x) s = .next (s.raised .addressOutOfRange (some (max s.I.toNat memSize))) := by
  simp only [exec, execStRegs, blockFault_outside h, raise_eq_raised]

theorem exec_ldRegs_outside (h : memSize ≤ s.I.toNat + x.val) :
    exec (.ldRegs x) s = .next (s.raised .addressOutOfRange (some (max s.I.toNat memSize))) := by
  simp only [exec, execLdRegs, blockFault_outside h, raise_eq_raised]

/-! ### Blocks inside the space -/

/-- Digits whose block lies inside the space are stored without a raise (R110). -/
theorem exec_ldB_inside (h : s.I.toNat + 2 < memSize) :
    exec (.ldB x) s = .next (s.storeBytes s.I.toNat (bcdDigits (s.readV x))) := by
  have hnone : blockFault s.I.toNat 3 = none := blockFault_eq_none.2 (.inr h)
  simp only [exec, execLdB, hnone]

/-- A register block inside the space is loaded without a raise (R112). -/
theorem exec_ldRegs_inside (h : s.I.toNat + x.val < memSize) :
    exec (.ldRegs x) s = .next ((s.writeVs (s.loadBytes s.I.toNat (x.val + 1))).writeI (s.blockNextI x)) := by
  have hnone : blockFault s.I.toNat (x.val + 1) = none := blockFault_eq_none.2 (.inr h)
  simp only [exec, execLdRegs, hnone]

/-- A register block store leaves every byte outside its block alone (R111). -/
theorem sameMemoryOutside_of_exec_stRegs (hin : s.I.toNat + x.val < memSize) (h : exec (.stRegs x) s = .next t) :
    SameMemoryOutside s.I.toNat (x.val + 1) s t := by
  obtain rfl := Host.Outcome.next.inj ((exec_stRegs_inside hin).symm.trans h)
  exact sameMemoryOutside_storeBytes s _ (s.registersUpTo_length x)

/-- Without `loadStoreIncrementsI` a register block access leaves `I` (R111, R112, D16). -/
theorem State.blockNextI_of_kept (h : s.cfg.loadStoreIncrementsI = false) : s.blockNextI x = s.I := by
  simp [State.blockNextI, h]

/-! ### What a register block load reads -/

/-- Loading `V0` to `Vx` puts the byte at `a + k` into each register `k` up to `x`. -/
theorem State.readV_writeVs_loadBytes_le (s : State) (a : Nat) {k : Reg} (hk : k ≤ x) :
    (s.writeVs (s.loadBytes a (x.val + 1))).readV k = s.readByte (a + k.val) := by
  have hlt : k.val < (s.loadBytes a (x.val + 1)).length := by
    rw [State.loadBytes_length]
    exact Nat.lt_succ_of_le hk
  rw [State.readV_writeVs, List.getElem?_eq_getElem hlt, Option.getD_some, State.loadBytes_getElem]

/-- Loading `V0` to `Vx` leaves the registers above `x`. -/
theorem State.readV_writeVs_loadBytes_gt (s : State) (a : Nat) {r : Reg} (hr : x < r) :
    (s.writeVs (s.loadBytes a (x.val + 1))).readV r = s.readV r := by
  have hlen : (s.loadBytes a (x.val + 1)).length ≤ r.val := by
    rw [State.loadBytes_length]
    exact hr
  rw [State.readV_writeVs, List.getElem?_eq_none hlen, Option.getD_none]

/-- `LD Vx, [I]` inside the space puts the byte at `I + k` into `Vk` for every `k` up to `x` (R112). -/
theorem readV_of_exec_ldRegs_le (hin : s.I.toNat + x.val < memSize) (h : exec (.ldRegs x) s = .next t) {k : Reg} (hk : k ≤ x) :
    t.readV k = s.readByte (s.I.toNat + k.val) := by
  obtain rfl := Host.Outcome.next.inj ((exec_ldRegs_inside hin).symm.trans h)
  exact s.readV_writeVs_loadBytes_le s.I.toNat hk

/-- `LD Vx, [I]` inside the space leaves the registers above `x` (R112). -/
theorem readV_of_exec_ldRegs_gt (hin : s.I.toNat + x.val < memSize) (h : exec (.ldRegs x) s = .next t) {r : Reg} (hr : x < r) :
    t.readV r = s.readV r := by
  obtain rfl := Host.Outcome.next.inj ((exec_ldRegs_inside hin).symm.trans h)
  exact s.readV_writeVs_loadBytes_gt s.I.toNat hr

/-! ### Digits and sums -/

/-- The digits of a byte, stored inside the space, are read back in the order hundreds, tens, ones (R110). -/
theorem State.readByte_storeBytes_bcdDigits {a : Nat} (hwf : s.memWf = true) (ha : a + 2 < memSize) (v : Byte) :
    ((s.storeBytes a (bcdDigits v)).readByte a).toNat = v.toNat / 100 ∧
    ((s.storeBytes a (bcdDigits v)).readByte (a + 1)).toNat = v.toNat / 10 % 10 ∧
    ((s.storeBytes a (bcdDigits v)).readByte (a + 2)).toNat = v.toNat % 10 := by
  have hv := v.isLt
  have hdigit (k : Fin 3) : (s.storeBytes a (bcdDigits v)).readByte (a + k.val) = (bcdDigits v)[k.val] :=
    State.readByte_storeBytes s hwf k.isLt ha
  refine ⟨?_, ?_, ?_⟩
  · exact (congrArg BitVec.toNat (hdigit 0)).trans (Nat.mod_eq_of_lt (by omega))
  · exact (congrArg BitVec.toNat (hdigit 1)).trans (Nat.mod_eq_of_lt (by omega))
  · exact (congrArg BitVec.toNat (hdigit 2)).trans (Nat.mod_eq_of_lt (by omega))

/-- A word and a byte add modulo 2^16 (R108). -/
theorem word_add_byte_toNat (w : Word) (b : Byte) : (w + b.zeroExtend 16).toNat = (w.toNat + b.toNat) % 65536 := by
  rw [BitVec.toNat_add, BitVec.toNat_setWidth_of_le (by decide)]

/-! ### The obligations -/

/-- Settles O38: the raise from the bounds check, and otherwise the store's block, frame and next `I`. -/
theorem registersStored : Obligations.RegistersStored := by
  refine ⟨encodes_stRegs, fun x s => ⟨exec_stRegs_outside, fun hin => ?_⟩⟩
  have h := exec_stRegs_inside hin
  refine ⟨_, h, fun hwf k hk => readByte_of_exec_stRegs hwf hin h hk, sameMemoryOutside_of_exec_stRegs hin h,
    s.blockNextI_toNat x, ?_⟩
  exact congrArg (State.writeI (s.blockNextI x)) (State.storeBytes_eq _ _ s)

/-- Settles O39: the raise from the bounds check, and otherwise the loaded registers, those above them and the next `I`. -/
theorem registersLoaded : Obligations.RegistersLoaded := by
  refine ⟨encodes_ldRegs, fun x s => ⟨exec_ldRegs_outside, fun hin => ?_⟩⟩
  have h := exec_ldRegs_inside hin
  exact ⟨_, h, fun k hk => readV_of_exec_ldRegs_le hin h hk, fun r hr => readV_of_exec_ldRegs_gt hin h hr,
    s.blockNextI_toNat x, rfl, fun _ => rfl⟩

/-- Settles O40: the load finds `I` where the store left it, so it reads back the bytes of the store. -/
theorem storeThenLoadRestores : Obligations.StoreThenLoadRestores := by
  intro x s t u regs hwf hkept hin hstore hload
  have hI : t.I = s.I := by
    obtain rfl := Host.Outcome.next.inj ((exec_stRegs_inside hin).symm.trans hstore)
    exact State.blockNextI_of_kept hkept
  have hin' : ({ t with V := regs } : State).I.toNat + x.val < memSize := by rw [hI]; exact hin
  refine ⟨fun k hk => ?_, fun r hr => readV_of_exec_ldRegs_gt hin' hload hr⟩
  calc u.readV k = t.readByte (t.I.toNat + k.val) := readV_of_exec_ldRegs_le hin' hload hk
    _ = t.readByte (s.I.toNat + k.val) := by rw [hI]
    _ = s.readV k := readByte_of_exec_stRegs hwf hin hstore hk

/-- Settles O36: each of the three handlers is one write of `I`. -/
theorem indexRegisterWrites : Obligations.IndexRegisterWrites :=
  ⟨encodes_ldI, encodes_addI, encodes_ldF, fun nnn x s =>
    ⟨⟨_, rfl, addressOf_toNat nnn, rfl, fun _ => rfl⟩,
      ⟨_, rfl, word_add_byte_toNat s.I (s.readV x), rfl, fun _ => rfl⟩,
      ⟨_, rfl, glyphAddress_toNat (s.readV x), rfl, fun _ => rfl⟩⟩⟩

/-- Settles O37: the raise from the bounds check, and otherwise the three stored digits. -/
theorem bcdDigitsStored : Obligations.BcdDigitsStored := by
  refine ⟨encodes_ldB, fun x s => ⟨exec_ldB_outside, fun hin => ?_⟩⟩
  exact ⟨_, exec_ldB_inside hin, fun hwf => State.readByte_storeBytes_bcdDigits hwf hin (s.readV x),
    sameMemoryOutside_storeBytes s _ (bcdDigits_length _), State.storeBytes_eq _ _ s⟩

end Sys2Proof.Machine
end

section
/-! PROOF. The display instructions: a sprite is checked before it is drawn, a drawn sprite flips exactly the cells that a set bit
hits, and so a second draw of it undoes the first (spec/44_display.md R113 to R115). -/

namespace Sys2Proof.Machine

variable {s t : State} {x y x' y' : Reg} {n : Fin 16}

/-! ### Clearing the screen -/

/-- Settles O42: the handler is one write of the framebuffer. -/
theorem clearScreen : Obligations.ClearScreen :=
  ⟨encodes_cls, fun _ => ⟨_, rfl, fun d => Vector.getElem_replicate d.isLt, rfl, fun _ => rfl⟩⟩

/-! ### The checks -/

/-- A sprite byte outside memory raises at the lowest one there (R114, R124). -/
theorem exec_drw_of_not_inMemory (h : ¬ SpriteInMemory s n) :
    exec (.drw x y n) s = .next (s.raised .addressOutOfRange (some (max s.I.toNat memSize))) := by
  obtain ⟨hpos, hout⟩ := not_or.1 h
  have hfault : blockFault s.I.toNat n.val = some (max s.I.toNat memSize) :=
    blockFault_eq_some.2 ⟨Nat.pos_of_ne_zero hpos, Nat.lt_of_not_le hout, rfl⟩
  simp only [exec, execDrw, hfault, raise_eq_raised]

theorem blockFault_of_spriteInMemory (h : SpriteInMemory s n) : blockFault s.I.toNat n.val = none := blockFault_eq_none.2 h

/-- The cell check of a sprite with a set bit outside the framebuffer finds the lowest such bit, since cells ascend (R114). -/
theorem find_drawnCells_eq_some {d : Nat} (hd : SpriteHits s x y n d) (hout : cellCount ≤ d)
    (hlow : ∀ e, SpriteHits s x y n e → cellCount ≤ e → d ≤ e) :
    (s.drawnCells x y n).find? (fun c => decide (cellCount ≤ c)) = some d := by
  cases hfind : (s.drawnCells x y n).find? (fun c => decide (cellCount ≤ c)) with
  | none => exact absurd (decide_eq_true hout) (List.find?_eq_none.1 hfind d (mem_drawnCells.2 hd))
  | some e =>
    obtain ⟨hmem, he, hle⟩ := find_least (spriteCells_sorted _ _ _) hfind
    have hed : e ≤ d := hle d (mem_drawnCells.2 hd) (decide_eq_true hout)
    have hde : d ≤ e := hlow e (mem_drawnCells.1 hmem) (of_decide_eq_true he)
    rw [Nat.le_antisymm hed hde]

/-- The cell check passes a sprite that lies on the display (R114). -/
theorem find_drawnCells_eq_none (hon : ∀ d, SpriteHits s x y n d → d < cellCount) :
    (s.drawnCells x y n).find? (fun c => decide (cellCount ≤ c)) = none := by
  refine List.find?_eq_none.2 fun c hc => ?_
  have hlt := hon c (mem_drawnCells.1 hc)
  simpa using hlt

theorem exec_drw_of_not_onDisplay {d : Nat} (hin : SpriteInMemory s n) (hd : SpriteHits s x y n d) (hout : cellCount ≤ d)
    (hlow : ∀ e, SpriteHits s x y n e → cellCount ≤ e → d ≤ e) :
    exec (.drw x y n) s = .next (s.raised .displayOutOfRange (some d)) := by
  simp only [exec, execDrw, blockFault_of_spriteInMemory hin, find_drawnCells_eq_some hd hout hlow, raise_eq_raised]

/-! ### A drawn sprite -/

/-- The state after a sprite that passes both checks is drawn: the framebuffer, and the collision flag last (R81, R114). -/
def State.drawn (s : State) (x y : Reg) (n : Fin 16) : State :=
  State.writeFlag (drawCells s.FB (s.drawnCells x y n)).2 { s with FB := (drawCells s.FB (s.drawnCells x y n)).1 }

theorem exec_drw_of_onDisplay (hin : SpriteInMemory s n) (hon : ∀ d, SpriteHits s x y n d → d < cellCount) :
    exec (.drw x y n) s = .next (s.drawn x y n) := by
  simp only [exec, execDrw, blockFault_of_spriteInMemory hin, find_drawnCells_eq_none hon, State.drawn]

/-- A cell that a set bit hits is flipped (R114). -/
theorem State.drawn_FB_of_hit (hon : ∀ d, SpriteHits s x y n d → d < cellCount) (d : Fin 2048) (hd : SpriteHits s x y n d.val) :
    (s.drawn x y n).FB[d.val] = !s.FB[d.val] := by
  have hcell := cellOn_drawCells s.FB _ (fun c hc => hon c (mem_drawnCells.1 hc)) (spriteCells_nodup _ _ _) d.val
  simpa [State.drawn, cellOn_of_lt, mem_drawnCells.2 hd] using hcell

/-- A cell that no set bit hits stays (R114). -/
theorem State.drawn_FB_of_not_hit (hon : ∀ d, SpriteHits s x y n d → d < cellCount) (d : Fin 2048)
    (hd : ¬ SpriteHits s x y n d.val) : (s.drawn x y n).FB[d.val] = s.FB[d.val] :=
  drawCells_drawnCells_of_not_hit (find_drawnCells_eq_none hon) d hd

/-- `VF` tells whether some drawn cell was on (R114). -/
theorem State.drawn_vf (hon : ∀ d, SpriteHits s x y n d → d < cellCount) :
    (s.drawn x y n).readV vf = flagByte ((s.drawnCells x y n).any fun c => cellOn s.FB c) := by
  rw [State.drawn, State.readV_writeFlag_vf, drawCells_snd _ _ (fun c hc => hon c (mem_drawnCells.1 hc)) (spriteCells_nodup _ _ _)]

/-- A set bit on a cell that is on is reported (R114). -/
theorem State.drawn_vf_of_collision (hon : ∀ d, SpriteHits s x y n d → d < cellCount) (d : Fin 2048)
    (hd : SpriteHits s x y n d.val) (hcell : s.FB[d.val] = true) : (s.drawn x y n).readV vf = 1 := by
  have hany : ((s.drawnCells x y n).any fun c => cellOn s.FB c) = true :=
    List.any_eq_true.2 ⟨d.val, mem_drawnCells.2 hd, (cellOn_of_lt s.FB d.isLt).trans hcell⟩
  rw [State.drawn_vf hon, hany]
  rfl

/-- A sprite that meets only cells that are off reports nothing (R114). -/
theorem State.drawn_vf_of_all_off (hon : ∀ d, SpriteHits s x y n d → d < cellCount)
    (hoff : ∀ d : Fin 2048, SpriteHits s x y n d.val → s.FB[d.val] = false) : (s.drawn x y n).readV vf = 0 := by
  have hany : ((s.drawnCells x y n).any fun c => cellOn s.FB c) = false := by
    refine List.any_eq_false.2 fun c hc => Bool.eq_false_iff.1 ?_
    have hhit := mem_drawnCells.1 hc
    exact (cellOn_of_lt s.FB (hon c hhit)).trans (hoff ⟨c, hon c hhit⟩ hhit)
  rw [State.drawn_vf hon, hany]
  rfl

/-- Settles O43: the two raises from the checks, and otherwise the cells and the flag of the drawn sprite. -/
theorem drawSprite : Obligations.DrawSprite := by
  refine ⟨encodes_drw, fun x y n s => ⟨exec_drw_of_not_inMemory, fun d => exec_drw_of_not_onDisplay, fun hin hon => ?_⟩⟩
  exact ⟨_, exec_drw_of_onDisplay hin hon, State.drawn_FB_of_hit hon, State.drawn_FB_of_not_hit hon,
    fun ⟨d, hd, hcell⟩ => State.drawn_vf_of_collision hon d hd hcell, State.drawn_vf_of_all_off hon,
    fun _ hr => State.readV_writeFlag_ne _ _ hr, rfl, fun _ => rfl⟩

/-! ### The same sprite again -/

/-- States with the same sprite bytes and start cell draw the same cells (R114). -/
theorem spriteHits_congr (hI : t.I = s.I) (hmem : SameMemory s t) (hx : (t.readV x').toNat % 64 = (s.readV x).toNat % 64)
    (hy : (t.readV y').toNat % 32 = (s.readV y).toNat % 32) (d : Nat) : SpriteHits t x' y' n d ↔ SpriteHits s x y n d := by
  simp only [SpriteHits, hI, hmem _, hx, hy]

/-- Drawing over the framebuffer that a draw of the same cells left restores every cell (R115). -/
theorem State.drawn_drawn_FB (hfb : t.FB = (s.drawn x y n).FB) (hhits : ∀ d, SpriteHits t x' y' n d ↔ SpriteHits s x y n d)
    (hon : ∀ d, SpriteHits s x y n d → d < cellCount) : (t.drawn x' y' n).FB = s.FB := by
  have hont : ∀ d, SpriteHits t x' y' n d → d < cellCount := fun d hd => hon d ((hhits d).1 hd)
  refine Vector.ext fun d hlt => ?_
  by_cases hd : SpriteHits s x y n d
  · calc (t.drawn x' y' n).FB[d] = !t.FB[d] := State.drawn_FB_of_hit hont ⟨d, hlt⟩ ((hhits d).2 hd)
      _ = !(s.drawn x y n).FB[d] := by rw [hfb]
      _ = !!s.FB[d] := congrArg _ (State.drawn_FB_of_hit hon ⟨d, hlt⟩ hd)
      _ = s.FB[d] := Bool.not_not _
  · calc (t.drawn x' y' n).FB[d] = t.FB[d] := State.drawn_FB_of_not_hit hont ⟨d, hlt⟩ (mt (hhits d).1 hd)
      _ = (s.drawn x y n).FB[d] := by rw [hfb]
      _ = s.FB[d] := State.drawn_FB_of_not_hit hon ⟨d, hlt⟩ hd

/-- Settles O44: the second draw hits the cells of the first, so it flips them back, and it finds on what the first turned on. -/
theorem drawTwiceRestores : Obligations.DrawTwiceRestores := by
  intro x y x' y' n s t s' hin hon hexec hfb hI hmem hx hy
  obtain rfl := Host.Outcome.next.inj ((exec_drw_of_onDisplay hin hon).symm.trans hexec)
  have hhits := spriteHits_congr (n := n) hI hmem hx hy
  have hon' : ∀ d, SpriteHits s' x' y' n d → d < cellCount := fun d hd => hon d ((hhits d).1 hd)
  have hin' : SpriteInMemory s' n := by rw [SpriteInMemory, hI]; exact hin
  refine ⟨_, exec_drw_of_onDisplay hin' hon', State.drawn_drawn_FB hfb hhits hon, fun hoff => ?_⟩
  refine ⟨State.drawn_vf_of_all_off hon hoff, fun ⟨d, hd⟩ => ?_⟩
  have hcell : s'.FB[d]'(hon d hd) = true := by
    calc s'.FB[d]'(hon d hd) = (s.drawn x y n).FB[d]'(hon d hd) := by simp only [hfb]
      _ = !s.FB[d]'(hon d hd) := State.drawn_FB_of_hit hon ⟨d, hon d hd⟩ hd
      _ = true := by rw [hoff ⟨d, hon d hd⟩ hd, Bool.not_false]
  exact State.drawn_vf_of_collision hon' ⟨d, hon d hd⟩ ((hhits d).2 hd) hcell

end Sys2Proof.Machine
end

section
/-! PROOF. The keypad and timer instructions: the operand and the first key decide what a keypad handler answers, and a wait
without a key undoes its own advance, so it is an idle loop (spec/45_timers_keypad.md R116 to R121). -/

namespace Sys2Proof.Machine

variable {s : State} {x : Reg} {k : Fin 16} {w : Word}

/-! ### Skips on a key -/

/-- `SKP Vx` with no such key raises with the number in `Vx` (R116). -/
theorem exec_skp_of_no_key (h : (s.readV x).toNat > 15) :
    exec (.skp x) s = .next (s.raised .keyOutOfRange (some (s.readV x).toNat)) := by
  simp only [exec, execSkp, State.keyOperand_error s h, raise_eq_raised]

/-- `SKNP Vx` with no such key raises with the number in `Vx` (R117). -/
theorem exec_sknp_of_no_key (h : (s.readV x).toNat > 15) :
    exec (.sknp x) s = .next (s.raised .keyOutOfRange (some (s.readV x).toNat)) := by
  simp only [exec, execSknp, State.keyOperand_error s h, raise_eq_raised]

/-- `SKP Vx` skips where the key in `Vx` is pressed (R82, R116). -/
theorem exec_skp_of_key (h : (s.readV x).toNat = k.val) : exec (.skp x) s = .next (s.skipIf (s.keyPressed k)) := by
  simp only [exec, execSkp, State.keyOperand_ok s h]

/-- `SKNP Vx` skips where the key in `Vx` is not pressed (R82, R117). -/
theorem exec_sknp_of_key (h : (s.readV x).toNat = k.val) : exec (.sknp x) s = .next (s.skipIf (!s.keyPressed k)) := by
  simp only [exec, execSknp, State.keyOperand_ok s h]

/-- A skip on a condition that fails (R82). -/
theorem State.skipIf_not (s : State) (c : Bool) : s.skipIf (!c) = if c = true then s else s.advance := by
  cases c <;> rfl

/-- Settles O45: a number above 15 is no key, and otherwise the two handlers skip on opposite conditions. -/
theorem keypadSkips : Obligations.KeypadSkips := by
  refine ⟨encodes_skp, encodes_sknp, fun x s => ⟨fun hno => ?_, fun k hkey => ⟨exec_skp_of_key hkey, ?_⟩⟩⟩
  · exact ⟨exec_skp_of_no_key hno, exec_sknp_of_no_key hno⟩
  · exact (exec_sknp_of_key hkey).trans (congrArg Host.Outcome.next (State.skipIf_not s (s.keyPressed k)))

/-! ### Waiting for a key -/

/-- `LD Vx, K` with no key pressed goes back to itself (R118). -/
theorem exec_ldK_of_no_key (h : ∀ k : Fin 16, s.K[k.val] = false) : exec (.ldK x) s = .next s.rewind := by
  simp only [exec, execLdK, State.firstKey_none s h]

/-- `LD Vx, K` takes the lowest pressed key (R118). -/
theorem exec_ldK_of_lowest_key (hk : s.K[k.val] = true) (hlow : ∀ j : Fin 16, j < k → s.K[j.val] = false) :
    exec (.ldK x) s = .next (s.writeV x (BitVec.ofNat 8 k.val)) := by
  simp only [exec, execLdK, State.firstKey_some s hk hlow]

/-- A key number fits a register. -/
theorem keyByte_toNat (k : Fin 16) : (BitVec.ofNat 8 k.val).toNat = k.val :=
  Nat.mod_eq_of_lt (k.isLt.trans (by decide))

/-- Settles O46: the handler goes back, or writes the number of the lowest pressed key. -/
theorem keypadWait : Obligations.KeypadWait := by
  refine ⟨encodes_ldK, fun x s => ⟨exec_ldK_of_no_key, fun k hk hlow => ?_⟩⟩
  refine ⟨_, exec_ldK_of_lowest_key hk hlow, ?_, registerFrame_writeV s x _⟩
  rw [State.readV_writeV_same, keyByte_toNat]

/-- Going back undoes the advance (R73, R118). -/
@[simp] theorem State.rewind_advance (s : State) : s.advance.rewind = s := by
  simp only [State.rewind, State.advance, BitVec.add_sub_cancel]

/-- A running machine's next cycle fetches `LD Vx, K` with no key pressed (R118). -/
structure State.KeyWait (w : Word) (x : Reg) (s : State) : Prop where
  running : s.Running
  cycleNext : s.CycleNext
  word : s.wordAt s.pc = some w
  wait : decodeWord w = .ldK x
  noKey : ∀ k : Fin 16, s.K[k.val] = false

/-- A wait without a key undoes the advance, so its cycle is the timer step (R76, R118). -/
theorem State.KeyWait.step_eq (h : s.KeyWait w x) : step s = .next s.timerStep := by
  have hexec : exec (decodeWord w) s.advance = .next s := by
    calc exec (decodeWord w) s.advance
        = .next s.advance.rewind := by rw [h.wait]; exact exec_ldK_of_no_key (s := s.advance) h.noKey
      _ = .next s := by rw [State.rewind_advance]
  rw [step_of_word h.running h.cycleNext h.word hexec, State.endCycle_of_ok s h.running.1]

/-- The timer step leaves the machine waiting. -/
theorem State.KeyWait.timerStep (h : s.KeyWait w x) : s.timerStep.KeyWait w x :=
  ⟨h.running, h.cycleNext, h.word, h.wait, h.noKey⟩

/-- Such a machine exists: after construction no key is pressed (R139). -/
theorem State.keyWait_reset : (State.reset.withFetchWord 16 0xF30A).KeyWait 0xF30A 3 :=
  ⟨⟨rfl, rfl⟩, rfl, rfl, rfl, fun k => Vector.getElem_replicate k.isLt⟩

/-- Settles O47: each waiting cycle is the timer step, so `n` of them lower the timers by `n`. -/
theorem keypadWaitHoldsTheProgram : Obligations.KeypadWaitHoldsTheProgram := by
  intro n s w x hrun hnext hword hwait hno
  exact run_of_idle (fun s (h : s.KeyWait w x) => ⟨h.step_eq, h.timerStep⟩) n ⟨hrun, hnext, hword, hwait, hno⟩

/-! ### The timers -/

/-- Settles O48: each of the three handlers is one write. -/
theorem timerInstructions : Obligations.TimerInstructions :=
  ⟨encodes_ldFromDT, encodes_ldDT, encodes_ldST, fun x s =>
    ⟨⟨s.writeV x s.DT, rfl, State.readV_writeV_same s x s.DT, registerFrame_writeV s x s.DT⟩, rfl, rfl⟩⟩

end Sys2Proof.Machine
end

section
/-! PROOF. Errors and the host: every error of a cycle has its cause and its value (spec/60_exceptions.md R122 to R124), an
operation that is not admitted stops by name (R125, R131, spec/70_reset_and_hazards.md R141), and what the host reads (R133 to
R135). -/

namespace Sys2Proof.Machine

variable {s t : State} {i : Instr}

/-! ### What a handler raises, and why -/

/-- The causes of R122 that a handler has: `i` raises `e` with the value `v` in the state `s`. -/
inductive Raises (s : State) : Instr → ErrorState → Option Nat → Prop where
  | retOnEmpty (h : s.SP.val = 0) : Raises s .ret .stackUnderflow (some 0)
  | callOnFull (nnn : BitVec 12) (h : s.SP.val = 16) : Raises s (.call nnn) .stackOverflow (some 16)
  | digits (x : Reg) (h : memSize ≤ s.I.toNat + 2) : Raises s (.ldB x) .addressOutOfRange (some (max s.I.toNat memSize))
  | store (x : Reg) (h : memSize ≤ s.I.toNat + x.val) :
      Raises s (.stRegs x) .addressOutOfRange (some (max s.I.toNat memSize))
  | load (x : Reg) (h : memSize ≤ s.I.toNat + x.val) :
      Raises s (.ldRegs x) .addressOutOfRange (some (max s.I.toNat memSize))
  | spriteBytes (x y : Reg) (n : Fin 16) (h : ¬ SpriteInMemory s n) :
      Raises s (.drw x y n) .addressOutOfRange (some (max s.I.toNat memSize))
  | spriteCell (x y : Reg) (n : Fin 16) (d : Nat) (hd : SpriteHits s x y n d) (hout : cellCount ≤ d)
      (hlow : ∀ e, SpriteHits s x y n e → cellCount ≤ e → d ≤ e) : Raises s (.drw x y n) .displayOutOfRange (some d)
  | skipOnNoKey (i : Instr) (x : Reg) (hi : i = .skp x ∨ i = .sknp x) (h : (s.readV x).toNat > 15) :
      Raises s i .keyOutOfRange (some (s.readV x).toNat)
  | unmapped (i : Instr) (hi : i.rowNumber = none) (h : s.cfg.unmappedPolicy = .fault) :
      Raises s i .undefinedInstruction none

theorem Raises.ne_ok {e : ErrorState} {v : Option Nat} (h : Raises s i e v) : e ≠ .ok := by
  cases h <;> decide

/-- The handler of `i` raises for a cause of R122, or it leaves the error and its record. -/
def RaisesOrKeeps (i : Instr) (s : State) : Prop :=
  (∃ e v, Raises s i e v ∧ exec i s = .next (s.raised e v)) ∨
  (∃ t, exec i s = .next t ∧ t.err = s.err ∧ t.fault = s.fault)

/-- A sprite lies on the display, or one of its set bits has the lowest cell index outside it. -/
theorem onDisplay_or_lowest_outside (s : State) (x y : Reg) (n : Fin 16) :
    (∀ d, SpriteHits s x y n d → d < cellCount) ∨
    (∃ d, SpriteHits s x y n d ∧ cellCount ≤ d ∧ ∀ e, SpriteHits s x y n e → cellCount ≤ e → d ≤ e) := by
  classical
  by_cases hex : ∃ d, SpriteHits s x y n d ∧ cellCount ≤ d
  · obtain ⟨hd, hout⟩ := Nat.find_spec hex
    exact .inr ⟨Nat.find hex, hd, hout, fun e he hle => Nat.find_min' hex ⟨he, hle⟩⟩
  · exact .inl fun d hd => Nat.lt_of_not_le fun hle => hex ⟨d, hd, hle⟩

theorem raisesOrKeeps_drw (x y : Reg) (n : Fin 16) (s : State) : RaisesOrKeeps (.drw x y n) s := by
  by_cases hin : SpriteInMemory s n
  · obtain hon | ⟨d, hd, hout, hlow⟩ := onDisplay_or_lowest_outside s x y n
    · exact .inr ⟨_, exec_drw_of_onDisplay hin hon, rfl, rfl⟩
    · exact .inl ⟨_, _, .spriteCell x y n d hd hout hlow, exec_drw_of_not_onDisplay hin hd hout hlow⟩
  · exact .inl ⟨_, _, .spriteBytes x y n hin, exec_drw_of_not_inMemory hin⟩

/-- The four unmapped slots share one handler (R79). -/
theorem exec_of_no_row (hi : i.rowNumber = none) (s : State) : exec i s = unmappedSlot s := by
  cases i with
  | unmapped0 low => rfl
  | unmapped8 low => rfl
  | unmappedE low => rfl
  | unmappedF low => rfl
  | _ => cases hi

theorem raisesOrKeeps_unmapped (hi : i.rowNumber = none) (s : State) : RaisesOrKeeps i s := by
  cases hpolicy : s.cfg.unmappedPolicy with
  | noop => exact .inr ⟨s, (exec_of_no_row hi s).trans (unmappedSlot_of_noop hpolicy), rfl, rfl⟩
  | fault => exact .inl ⟨_, _, .unmapped i hi hpolicy, (exec_of_no_row hi s).trans (unmappedSlot_of_fault hpolicy)⟩

/-- Every handler raises for a cause of R122, or leaves the error and its record. -/
theorem exec_raisesOrKeeps (i : Instr) (s : State) : RaisesOrKeeps i s := by
  cases i with
  | ret =>
    by_cases h : s.SP.val = 0
    · exact .inl ⟨_, _, .retOnEmpty h, exec_ret_of_empty h⟩
    · exact .inr ⟨_, exec_ret_of_not_empty h, rfl, rfl⟩
  | call nnn =>
    by_cases h : s.SP.val < 16
    · exact .inr ⟨_, exec_call_of_not_full nnn h, rfl, rfl⟩
    · have hfull : s.SP.val = 16 := by omega
      exact .inl ⟨_, _, .callOnFull nnn hfull, exec_call_of_full nnn hfull⟩
  | ldB x =>
    by_cases h : s.I.toNat + 2 < memSize
    · exact .inr ⟨_, exec_ldB_inside h, by simp⟩
    · exact .inl ⟨_, _, .digits x (Nat.le_of_not_lt h), exec_ldB_outside (Nat.le_of_not_lt h)⟩
  | stRegs x =>
    by_cases h : s.I.toNat + x.val < memSize
    · exact .inr ⟨_, exec_stRegs_inside h, by simp⟩
    · exact .inl ⟨_, _, .store x (Nat.le_of_not_lt h), exec_stRegs_outside (Nat.le_of_not_lt h)⟩
  | ldRegs x =>
    by_cases h : s.I.toNat + x.val < memSize
    · exact .inr ⟨_, exec_ldRegs_inside h, rfl, rfl⟩
    · exact .inl ⟨_, _, .load x (Nat.le_of_not_lt h), exec_ldRegs_outside (Nat.le_of_not_lt h)⟩
  | drw x y n => exact raisesOrKeeps_drw x y n s
  | skp x =>
    by_cases h : (s.readV x).toNat > 15
    · exact .inl ⟨_, _, .skipOnNoKey _ x (.inl rfl) h, exec_skp_of_no_key h⟩
    · exact .inr ⟨_, exec_skp_of_key (k := ⟨_, Nat.lt_succ_of_le (Nat.le_of_not_lt h)⟩) rfl, by simp⟩
  | sknp x =>
    by_cases h : (s.readV x).toNat > 15
    · exact .inl ⟨_, _, .skipOnNoKey _ x (.inr rfl) h, exec_sknp_of_no_key h⟩
    · exact .inr ⟨_, exec_sknp_of_key (k := ⟨_, Nat.lt_succ_of_le (Nat.le_of_not_lt h)⟩) rfl, by simp⟩
  | ldK x =>
    cases hkey : s.firstKey with
    | none => exact .inr ⟨s.rewind, by simp only [exec, execLdK, hkey], rfl, rfl⟩
    | some k => exact .inr ⟨s.writeV x (BitVec.ofNat 8 k.val), by simp only [exec, execLdK, hkey], rfl, rfl⟩
  | unmapped0 low => exact raisesOrKeeps_unmapped rfl s
  | unmapped8 low => exact raisesOrKeeps_unmapped rfl s
  | unmappedE low => exact raisesOrKeeps_unmapped rfl s
  | unmappedF low => exact raisesOrKeeps_unmapped rfl s
  | _ => exact .inr ⟨_, rfl, by simp⟩

/-! ### What a cycle raises, and why -/

/-- A fetch fails only at the end of the space or beyond it, at its first byte there (R72, R124). -/
theorem State.fetchAt_error {p : Word} {a : Nat} (h : s.fetchAt p = .error a) :
    ¬ p.toNat + 1 < memSize ∧ a = max p.toNat memSize := by
  by_cases hin : p.toNat + 1 < memSize
  · cases (State.fetchAt_inside s hin).symm.trans h
  · exact ⟨hin, Except.error.inj (h.symm.trans (State.fetchAt_outside s hin))⟩

/-- A cycle of a running machine raises at the fetch, raises in the handler for a cause of R122, or ends without an error and
leaves the record. -/
theorem cycle_raise_cases (hrun : s.Running) (hnext : s.CycleNext) (h : step s = .next t) :
    (s.wordAt s.pc = none ∧ ¬ s.pc.toNat + 1 < memSize ∧
      t = s.raiseAt s.pc .addressOutOfRange (some (max s.pc.toNat memSize))) ∨
    (∃ w e v, s.wordAt s.pc = some w ∧ Raises s.advance (decodeWord w) e v ∧ t = s.raiseAt s.pc e v) ∨
    (t.err = .ok ∧ t.fault = s.fault) := by
  rw [step_of_cycleNext hnext, cycle_of_running hrun] at h
  obtain ⟨a, hfetch, hraise⟩ | ⟨w, u, hfetch, hexec, hend⟩ := runCycle_cases s
  · obtain ⟨hout, rfl⟩ := State.fetchAt_error hfetch
    exact .inl ⟨State.wordAt_of_fetchAt_error s hfetch, hout, Host.Outcome.next.inj (h.symm.trans hraise)⟩
  · obtain rfl : t = u.endCycle := Host.Outcome.next.inj (h.symm.trans hend)
    obtain ⟨e, v, hcause, hraise⟩ | ⟨u', hkeep, herr, hfault⟩ := exec_raisesOrKeeps (decodeWord w) s.advance
    · obtain rfl : u = s.advance.raised e v := Host.Outcome.next.inj (hexec.symm.trans hraise)
      refine .inr (.inl ⟨w, e, v, State.wordAt_of_fetchAt s hfetch, hcause, ?_⟩)
      rw [State.endCycle_of_error _ hcause.ne_ok, State.raised_advance]
    · obtain rfl : u = u' := Host.Outcome.next.inj (hexec.symm.trans hkeep)
      exact .inr (.inr ⟨(State.endCycle_err u).trans (herr.trans hrun.1), (State.endCycle_fault u).trans hfault⟩)

/-- Settles O12: each cause of a raise is the clause of its error. -/
theorem errorHasItsCause : Obligations.ErrorHasItsCause := by
  intro s t hrun hnext h
  obtain ⟨hnone, hout, rfl⟩ | ⟨w, e, v, hword, hcause, rfl⟩ | ⟨hok, hfault⟩ := cycle_raise_cases hrun hnext h
  · simp only [State.raiseAt_err, State.raiseAt_fault, hnone]
    exact ⟨_, none, rfl, Nat.le_max_right _ _, .inl ⟨rfl, hout, rfl⟩⟩
  · generalize hi : decodeWord w = i at hcause
    have hrecord : (s.raiseAt s.pc e v).fault = some ⟨some s.pc, some w, v⟩ := by rw [State.raiseAt_fault, hword]
    rw [hrecord]
    cases hcause with
    | retOnEmpty hempty => exact ⟨w, hword, hi, hempty, rfl⟩
    | callOnFull nnn hfull => exact ⟨w, nnn, hword, hi, hfull, rfl⟩
    | digits x hout =>
      exact ⟨_, some w, rfl, Nat.le_max_right _ _, .inr ⟨rfl, w, rfl, hword, .inl ⟨x, hi, Nat.lt_succ_of_le hout⟩⟩⟩
    | store x hout =>
      exact ⟨_, some w, rfl, Nat.le_max_right _ _,
        .inr ⟨rfl, w, rfl, hword, .inr (.inl ⟨x, .inl hi, Nat.lt_succ_of_le hout⟩)⟩⟩
    | load x hout =>
      exact ⟨_, some w, rfl, Nat.le_max_right _ _,
        .inr ⟨rfl, w, rfl, hword, .inr (.inl ⟨x, .inr hi, Nat.lt_succ_of_le hout⟩)⟩⟩
    | spriteBytes x y n hout =>
      obtain ⟨hne, hlt⟩ := not_or.1 hout
      exact ⟨_, some w, rfl, Nat.le_max_right _ _,
        .inr ⟨rfl, w, rfl, hword, .inr (.inr ⟨x, y, n, hi, Nat.pos_of_ne_zero hne, Nat.lt_of_not_le hlt⟩)⟩⟩
    | spriteCell x y n d hd hout hlow => exact ⟨w, x, y, n, d, hword, hi, hd, hout, hlow, rfl⟩
    | skipOnNoKey i x hskip hno => exact ⟨w, x, hword, hi ▸ hskip, hno, rfl⟩
    | unmapped i hrow hpolicy => exact ⟨w, hword, hi ▸ hrow, hpolicy, rfl⟩
  · simp only [hok]
    exact hfault

/-! ### Which operations are admitted -/

/-- A cycle answers a next state on a running machine only (R71). -/
theorem cycle_answers_iff : (∃ t, cycle s = .next t) ↔ s.err = .ok ∧ s.phase = .loaded := by
  refine ⟨fun ⟨t, h⟩ => running_of_cycle_next h, fun hrun => ?_⟩
  rw [cycle_of_running hrun]
  obtain ⟨a, -, h⟩ | ⟨w, u, -, -, h⟩ := runCycle_cases s
  · exact ⟨_, h⟩
  · exact ⟨_, h⟩

/-- A load on a machine just built and without an error is the loader (R140, R141). -/
theorem load_of_admitted {src : RomSource} (herr : s.err = .ok) (hphase : s.phase = .constructed) :
    load src s = .next (loadRom src s) := by
  simp only [load, herr, hphase]

/-- A load answers a next state on a machine just built and without an error only (R140, R141). -/
theorem load_answers_iff {src : RomSource} : (∃ t, load src s = .next t) ↔ s.err = .ok ∧ s.phase = .constructed := by
  refine ⟨fun ⟨t, h⟩ => ?_, fun ⟨herr, hphase⟩ => ⟨_, load_of_admitted herr hphase⟩⟩
  obtain ⟨herr, hphase, -⟩ := load_next h
  exact ⟨herr, hphase⟩

/-- A step does the first of the host's operations to come (R131). -/
theorem step_of_cons {op : HostOp} {ops : List HostOp} (h : s.hostOps = op :: ops) :
    step s = applyHostOp op { s with hostOps := ops } := by
  simp only [step, hostTurn, h]

/-- Settles O8: a key change always answers, a cycle and a load where they are admitted. -/
theorem stepAnswersExactlyWhenAdmitted : Obligations.StepAnswersExactlyWhenAdmitted := by
  intro s
  cases hops : s.hostOps with
  | nil =>
    rw [step_of_cycleNext hops]
    exact cycle_answers_iff
  | cons op ops =>
    rw [step_of_cons hops]
    cases op with
    | cycle => exact cycle_answers_iff (s := { s with hostOps := ops })
    | load src => exact load_answers_iff (s := { s with hostOps := ops })
    | setKey k p => exact ⟨fun _ => trivial, fun _ => ⟨_, rfl⟩⟩

/-- Settles O51: a step applies the first operation to come to the machine with the others still to come. -/
theorem hostOperationsComeFirst : Obligations.HostOperationsComeFirst :=
  fun _ _ => ⟨fun _ _ => step_of_cons, fun _ => step_of_cons, step_of_cons, step_of_cycleNext⟩

/-! ### Stops -/

/-- A halted machine has no cycle (R125). -/
theorem cycle_of_err_ne_ok (h : s.err ≠ .ok) : cycle s = .fault (.halted s.err) := by
  unfold cycle
  split
  next hok _ => exact absurd hok h
  next hok _ => exact absurd hok h
  · rfl

/-- A halted machine takes no load (R125). -/
theorem load_of_err_ne_ok {src : RomSource} (h : s.err ≠ .ok) : load src s = .fault (.halted s.err) := by
  unfold load
  split
  next hok _ => exact absurd hok h
  next hok _ => exact absurd hok h
  · rfl

/-- No cycle comes before a load (R141). -/
theorem cycle_of_constructed (herr : s.err = .ok) (hphase : s.phase = .constructed) : cycle s = .refused .cycleBeforeLoad := by
  simp only [cycle, herr, hphase]

/-- No load comes after a load (R141). -/
theorem load_of_loaded {src : RomSource} (herr : s.err = .ok) (hphase : s.phase = .loaded) :
    load src s = .refused .secondLoad := by
  simp only [load, herr, hphase]

/-- Settles O9: an error halts both operations, and without one the phase refuses one of them. -/
theorem stopsAreNamed : Obligations.StopsAreNamed :=
  fun _ _ => ⟨fun herr => ⟨cycle_of_err_ne_ok herr, load_of_err_ne_ok herr⟩, cycle_of_constructed, load_of_loaded⟩

/-! ### What the host reads -/

/-- A cell is read as all ones or as zero (R133). -/
theorem readFramebuffer_getElem (s : State) (d : Fin 2048) :
    (readFramebuffer s)[d.val] = if s.FB[d.val] = true then 0xFFFFFFFF else 0x00000000 :=
  Vector.getElem_map _ d.isLt

/-- The tone sounds while `ST` is not zero (R134). -/
theorem soundActive_iff (s : State) : soundActive s = true ↔ s.ST ≠ 0 := bne_iff_ne

/-- Settles O52: the cells and the tone by their lemmas, the timers and the status as the fields they are. -/
theorem hostReads : Obligations.HostReads :=
  fun s => ⟨readFramebuffer_getElem s, rfl, soundActive_iff s, rfl⟩

/-- Settles O53: the codes of all nine error states, evaluated. -/
theorem errorCodes : Obligations.ErrorCodes := rfl

end Sys2Proof.Machine
end

section
/-! PROOF. The machine right after construction and the ROM loader (spec/70_reset_and_hazards.md R138 to R140). -/

namespace Sys2Proof.Machine

variable {s : State} {img : List Byte}

/-! ### The machine right after construction -/

/-- The font, byte by byte, stands at `0x050` (R42). -/
theorem constructionByte_font (c : Config) (k : Fin 80) : constructionByte c (0x050 + k.val) = c.fontGlyphs[k.val] := by
  have hfont : 0x050 ≤ 0x050 + k.val ∧ 0x050 + k.val < 0x0A0 := ⟨Nat.le_add_right _ _, Nat.add_lt_add_left k.isLt _⟩
  simp only [constructionByte, dif_pos hfont, Nat.add_sub_cancel_left]

/-- Outside the font memory starts as zero (R42). -/
theorem constructionByte_outside (c : Config) {a : Nat} (h : a < 0x050 ∨ 0x0A0 ≤ a) : constructionByte c a = 0 :=
  dif_neg (by omega)

/-- Construction lists no cell: every byte is the one construction leaves. -/
theorem readByte_construct (c : Config) (a : Nat) : (State.construct c).readByte a = constructionByte c a := rfl

/-- Construction is as built, without an error and with no cell listed. -/
theorem State.construct_inv (c : Config) : (State.construct c).Inv where
  canonical := rfl
  noRecord _ := rfl
  asBuilt _ := rfl
  loadErrors _ := .inl rfl
  cycleErrors := nofun
  precise := nofun

/-- Settles O17: the default parameters are one choice of parameters. -/
theorem constructionMeetsInvariant : Obligations.ConstructionMeetsInvariant :=
  ⟨State.construct_inv, State.construct_inv defaultConfig⟩

/-- Settles O18: a replicated vector holds one value, memory holds the bytes of construction, every other piece is as it
is written. -/
theorem constructionValues : Obligations.ConstructionValues := by
  intro c
  have hV (x : Reg) : (State.construct c).readV x = 0 := Vector.getElem_replicate x.isLt
  have hS (j : Fin 16) : (State.construct c).S[j.val] = 0 := Vector.getElem_replicate j.isLt
  have hfont (k : Fin 80) : (State.construct c).readByte (0x050 + k.val) = c.fontGlyphs[k.val] :=
    (readByte_construct c _).trans (constructionByte_font c k)
  have hzero (a : Nat) (_ : a < 0x1000) (h : a < 0x050 ∨ 0x0A0 ≤ a) : (State.construct c).readByte a = 0 :=
    (readByte_construct c a).trans (constructionByte_outside c h)
  have hFB (d : Fin 2048) : (State.construct c).FB[d.val] = false := Vector.getElem_replicate d.isLt
  have hK (k : Fin 16) : (State.construct c).K[k.val] = false := Vector.getElem_replicate k.isLt
  exact ⟨hV, rfl, rfl, hS, rfl, rfl, rfl, hfont, hzero, hFB, hK, rfl, rfl, rfl⟩

/-! ### The loader -/

/-- The limit is the number the parameter names (R8). -/
theorem romLimit_eq {c : Config} {limit : Nat}
    (h : (c.romMaxBytes = .bytes3583 ∧ limit = 3583) ∨ (c.romMaxBytes = .bytes3584 ∧ limit = 3584)) :
    romLimit c = limit := by
  obtain ⟨hc, rfl⟩ | ⟨hc, rfl⟩ := h <;> simp only [romLimit, hc]

/-- Under either limit an image that is not too long ends inside memory (R140). -/
theorem romBase_add_romLimit_le (c : Config) : romBase + romLimit c ≤ memSize := by
  unfold romLimit
  split <;> decide

/-- An image over the limit raises the loader's overflow and records its length (R140). -/
theorem loadRom_of_gt (h : img.length > romLimit s.cfg) :
    loadRom (.image img) s = { s with err := .romOverflow, fault := some ⟨none, none, some img.length⟩ } :=
  if_pos h

/-- An image within the limit is stored from the load address on, and the machine is loaded (R140). -/
theorem loadRom_of_le (h : img.length ≤ romLimit s.cfg) :
    loadRom (.image img) s = { s.storeBytes romBase img with phase := .loaded } :=
  if_neg (Nat.not_lt.2 h)

/-- An image that was stored is read back, byte by byte, from the load address on. -/
theorem readByte_loadRom (hwf : s.memWf = true) (hlen : img.length ≤ romLimit s.cfg) {k : Nat} (hk : k < img.length) :
    (loadRom (.image img) s).readByte (romBase + k) = img[k] := by
  have hroom : romBase + img.length ≤ memSize :=
    (Nat.add_le_add_left hlen romBase).trans (romBase_add_romLimit_le s.cfg)
  rw [loadRom_of_le hlen]
  exact State.readByte_storeBytes s hwf hk hroom

/-- A load writes memory only where the image goes. -/
theorem sameMemoryOutside_loadRom (hlen : img.length ≤ romLimit s.cfg) :
    SameMemoryOutside romBase img.length s (loadRom (.image img) s) := by
  rw [loadRom_of_le hlen]
  exact sameMemoryOutside_storeBytes s romBase rfl

/-- A load that succeeds writes memory and the phase and nothing else. -/
theorem loadRom_eq_of_le (hlen : img.length ≤ romLimit s.cfg) :
    loadRom (.image img) s = { s with M := (loadRom (.image img) s).M, phase := .loaded } := by
  rw [loadRom_of_le hlen]
  exact congrArg (fun u : State => { u with phase := .loaded }) (State.storeBytes_eq romBase img s)

/-- Settles O50: an admitted load is the loader, which compares the length of the image with the limit. -/
theorem loaderLoadsOrFails : Obligations.LoaderLoadsOrFails := by
  intro s limit herr hphase hlimit
  obtain rfl := romLimit_eq hlimit
  refine ⟨load_of_admitted herr hphase, fun img => ⟨fun hlong => ?_, fun hlen => ?_⟩⟩
  · rw [load_of_admitted herr hphase, loadRom_of_gt hlong]
    exact ⟨_, rfl, rfl, rfl, rfl, fun _ => rfl⟩
  · have hloaded : (loadRom (.image img) s).phase = .loaded := by rw [loadRom_of_le hlen]
    refine ⟨_, load_of_admitted herr hphase, hloaded, fun hwf k hk => readByte_loadRom hwf hlen hk,
      sameMemoryOutside_loadRom hlen, ?_⟩
    rw [hloaded]
    exact loadRom_eq_of_le hlen

end Sys2Proof.Machine
end

section
/-! PROOF. The font in memory after construction (spec/10_state.md R31, spec/20_memory.md R42). -/

namespace Sys2Proof.Machine

/-- Loading from the font after construction, under any parameters, cuts the bytes out of the font of those parameters. -/
theorem loadBytes_construct_font (c : Config) {j n : Nat} (h : j + n ≤ 80) :
    (State.construct c).loadBytes (0x050 + j) n = (c.fontGlyphs.toList.drop j).take n := by
  have hlen : ((c.fontGlyphs.toList.drop j).take n).length = n := by
    rw [List.length_take, List.length_drop, Vector.length_toList]
    omega
  refine List.ext_getElem ((State.loadBytes_length _ _ _).trans hlen.symm) fun i hi _ => ?_
  have hfont : j + i < 80 := by
    rw [State.loadBytes_length] at hi
    omega
  rw [State.loadBytes_getElem, readByte_construct, Nat.add_assoc, constructionByte_font c ⟨j + i, hfont⟩,
    List.getElem_take, List.getElem_drop, Vector.getElem_toList]

/-- Settles O19: each digit's five bytes are cut out of the default font, and the sixteen pieces of that font are the table. -/
theorem fontGlyphTable : Obligations.FontGlyphTable := by
  have hglyph : ∀ k ∈ List.range 16,
      State.reset.loadBytes (0x050 + 5 * k) 5 = (defaultGlyphs.toList.drop (5 * k)).take 5 := by
    intro k hk
    have hk : k < 16 := List.mem_range.1 hk
    exact loadBytes_construct_font defaultConfig (by omega)
  exact (List.map_congr_left hglyph).trans (by decide)

end Sys2Proof.Machine
end
